-- ==== Sys2Proof/Word.lean ====
section
/-! DEFINITION. The widths every file uses. A command word is one 32-bit vector and every register is one bit vector of its
stated width; nothing is ever split into bytes (spec/20_memory.md R72, spec/00_scope.md R8). -/

namespace Sys2Proof

/-- A host command word, `CMD_W` = 32 bits (R8, R90). -/
abbrev Word := BitVec 32

/-- A 16-bit value: a sample, a period, a duty value (`SAMPLE_W`, `PERIOD_W`, `DUTY_W` of R8). -/
abbrev Half := BitVec 16

/-- A one-bit register or field. -/
abbrev Bit := BitVec 1

end Sys2Proof
end

