-- ==== Sys2Proof/Syntax.lean ====
section
/-! DEFINITION. The five host commands, one constructor per row of spec/opcode_table.json, with the operand fields of
spec/30_encoding.md R91 and R92 at their widths. The steps of the other agents have no encoding (R105) and are no
instructions; they stand in Sys2Proof/Machine/Event.lean. -/

namespace Sys2Proof

/-- A decoded host command. Operands are the unsigned fields of the word, at the field's width (R92), so that every
out-of-range value the spec wants rejected can be presented (R93 to R97). -/
inductive Instr where
  /-- `NOP`, format N (R120). -/
  | nop
  /-- `ADC_CFG ch, cont, avg, count`, format A (R121): the source's `configure` for sampling. -/
  | adcCfg (ch : BitVec 8) (cont avg : Bit) (count : BitVec 8)
  /-- `ADC_START ch`, format S (R122): the source's `start`. -/
  | adcStart (ch : BitVec 8)
  /-- `PWM_CFG period`, format P (R123): the source's `configure` for PWM. -/
  | pwmCfg (period : Half)
  /-- `PWM_SETDUTY duty`, format D (R124): the source's `setDuty`, its operand 28 bits wide (R97). -/
  | pwmSetDuty (duty : BitVec 28)
deriving DecidableEq, Repr

end Sys2Proof
end

