-- ==== Sys2Proof/WellFormed.lean ====
section
/-! DEFINITION. The assembler form of a host command (spec/30_encoding.md R104) and when it is well formed. The operands of
`Instr` are bit vectors of the fields' widths, so a decoded command is well formed by its type; what can be ill formed is
the written command, whose operands are numbers: a wrong number of operands, or an operand that does not fit its field. -/

namespace Sys2Proof

/-- The mnemonics of R98. -/
inductive Mnemonic where
  | nop
  | adcCfg
  | adcStart
  | pwmCfg
  | pwmSetDuty
deriving DecidableEq, Repr

/-- The widths of a command's operands in the order of the assembler form (R91, R104). -/
def Mnemonic.operandWidths : Mnemonic → List Nat
  | .nop => []
  | .adcCfg => [8, 1, 1, 8]
  | .adcStart => [8]
  | .pwmCfg => [16]
  | .pwmSetDuty => [28]

/-- A written command: a mnemonic and its operands as numbers, in the order of the source's call (R104). -/
structure AsmCommand where
  mnemonic : Mnemonic
  operands : List Nat
deriving DecidableEq, Repr

/-- As many operands as the command's format has fields. -/
def AsmCommand.arityOk (a : AsmCommand) : Bool :=
  a.operands.length == a.mnemonic.operandWidths.length

/-- Every operand fits its field: "An operand that does not fit its field ... has no encoding" (R104). -/
def AsmCommand.operandsFit (a : AsmCommand) : Bool :=
  (a.operands.zip a.mnemonic.operandWidths).all fun p => decide (p.1 < 2 ^ p.2)

/-- A written command an assembler accepts (R104). -/
def AsmCommand.wellFormed (a : AsmCommand) : Bool :=
  a.arityOk && a.operandsFit

/-- The mnemonic of a decoded command. -/
def Instr.mnemonic : Instr → Mnemonic
  | .nop => .nop
  | .adcCfg _ _ _ _ => .adcCfg
  | .adcStart _ => .adcStart
  | .pwmCfg _ => .pwmCfg
  | .pwmSetDuty _ => .pwmSetDuty

/-- A decoded command as it is written (R104). -/
def Instr.asm : Instr → AsmCommand
  | .nop => ⟨.nop, []⟩
  | .adcCfg ch cont avg count => ⟨.adcCfg, [ch.toNat, cont.toNat, avg.toNat, count.toNat]⟩
  | .adcStart ch => ⟨.adcStart, [ch.toNat]⟩
  | .pwmCfg period => ⟨.pwmCfg, [period.toNat]⟩
  | .pwmSetDuty duty => ⟨.pwmSetDuty, [duty.toNat]⟩

/-- A decoded command is well formed when its written form is. -/
def Instr.wellFormed (i : Instr) : Bool :=
  i.asm.wellFormed

end Sys2Proof
end

