-- ==== Sys2Proof/Decode.lean ====
section
/-! DEFINITION. The decoder, total on all 2^32 words and rejecting by name (spec/30_encoding.md R90 to R103); the opcode map as
the list of match and mask pairs (R98, R106); the encoder, written from the formats of R91; the assembler (R104). -/

namespace Sys2Proof

/-- Why a word is no command (R101). -/
inductive DecodeError where
  /-- `op` is 0x5 to 0xF: reserved for later versions and illegal in this one (R103). -/
  | reservedOpcode
  /-- `op` is 0x0 to 0x3 and a reserved field of the format is not zero (R102). -/
  | reservedBits
deriving DecidableEq, Repr

/-- The opcode `op = cmd[31:28]` (R90). -/
def opcodeOf (w : Word) : BitVec 4 :=
  w.extractLsb' 28 4

/-- A word of format N: bits 27:0 are reserved (R91, R102). -/
def decodeNop (w : Word) : Except DecodeError Instr :=
  if w.extractLsb' 0 28 = 0#28 then .ok .nop else .error .reservedBits

/-- A word of format A: `count` 23:16, `avg` 9, `cont` 8, `ch` 7:0; bits 27:24 and 15:10 are reserved (R91, R92, R102). -/
def decodeAdcCfg (w : Word) : Except DecodeError Instr :=
  if w.extractLsb' 24 4 = 0#4 ∧ w.extractLsb' 10 6 = 0#6 then
    .ok (.adcCfg (w.extractLsb' 0 8) (w.extractLsb' 8 1) (w.extractLsb' 9 1) (w.extractLsb' 16 8))
  else .error .reservedBits

/-- A word of format S: `ch` 7:0; bits 27:8 are reserved (R91, R92, R102). -/
def decodeAdcStart (w : Word) : Except DecodeError Instr :=
  if w.extractLsb' 8 20 = 0#20 then .ok (.adcStart (w.extractLsb' 0 8)) else .error .reservedBits

/-- A word of format P: `period` 15:0; bits 27:16 are reserved (R91, R92, R102). -/
def decodePwmCfg (w : Word) : Except DecodeError Instr :=
  if w.extractLsb' 16 12 = 0#12 then .ok (.pwmCfg (w.extractLsb' 0 16)) else .error .reservedBits

/-- A word of format D: `duty` 27:0, no reserved field (R91, R92, R102). -/
def decodePwmSetDuty (w : Word) : Except DecodeError Instr :=
  .ok (.pwmSetDuty (w.extractLsb' 0 28))

/-- The decoder: total, and a function of the word alone (R99). -/
def decode (w : Word) : Except DecodeError Instr :=
  match (opcodeOf w).toNat with
  | 0 => decodeNop w
  | 1 => decodeAdcCfg w
  | 2 => decodeAdcStart w
  | 3 => decodePwmCfg w
  | 4 => decodePwmSetDuty w
  | _ => .error .reservedOpcode

/-- A row of the opcode map. -/
structure OpcodeRow where
  mnemonic : Mnemonic
  value : Word
  mask : Word
deriving DecidableEq, Repr

/-- The opcode map of R98, row by row. -/
def opcodeMap : List OpcodeRow :=
  [ ⟨.nop, 0x00000000#32, 0xFFFFFFFF#32⟩,
    ⟨.adcCfg, 0x10000000#32, 0xFF00FC00#32⟩,
    ⟨.adcStart, 0x20000000#32, 0xFFFFFF00#32⟩,
    ⟨.pwmCfg, 0x30000000#32, 0xFFFF0000#32⟩,
    ⟨.pwmSetDuty, 0x40000000#32, 0xF0000000#32⟩ ]

/-- A word selects a row when `(cmd and mask) = match` (R98). -/
def OpcodeRow.selects (row : OpcodeRow) (w : Word) : Bool :=
  w &&& row.mask == row.value

/-- The encoder, field by field from the formats of R91, reserved fields zero (R102). -/
def encode : Instr → Word
  | .nop => 0x0#4 ++ 0#28
  | .adcCfg ch cont avg count => 0x1#4 ++ 0#4 ++ count ++ 0#6 ++ avg ++ cont ++ ch
  | .adcStart ch => 0x2#4 ++ 0#20 ++ ch
  | .pwmCfg period => 0x3#4 ++ 0#12 ++ period
  | .pwmSetDuty duty => 0x4#4 ++ duty

/-- The assembler: a written command to its command, refusing a wrong number of operands and an operand that does not fit
its field (R104). -/
def assemble (a : AsmCommand) : Option Instr :=
  if a.wellFormed then
    match a.mnemonic, a.operands with
    | .nop, [] => some .nop
    | .adcCfg, [ch, cont, avg, count] =>
        some (.adcCfg (BitVec.ofNat 8 ch) (BitVec.ofNat 1 cont) (BitVec.ofNat 1 avg) (BitVec.ofNat 8 count))
    | .adcStart, [ch] => some (.adcStart (BitVec.ofNat 8 ch))
    | .pwmCfg, [period] => some (.pwmCfg (BitVec.ofNat 16 period))
    | .pwmSetDuty, [duty] => some (.pwmSetDuty (BitVec.ofNat 28 duty))
    | _, _ => none
  else none

/-! The characters of the assembler form (R104): a mnemonic in upper case, then operands separated by commas, each a decimal
number or a hexadecimal number after `0x`. Blanks around an operand are skipped (log entry 7). -/

/-- The value of a digit in a base of 10 or 16, if it is one. -/
def digitValue (base : Nat) (c : Char) : Option Nat :=
  let n := c.toNat
  let d := if 48 ≤ n ∧ n ≤ 57 then n - 48
    else if 65 ≤ n ∧ n ≤ 70 then n - 55
    else if 97 ≤ n ∧ n ≤ 102 then n - 87
    else 16
  if d < base then some d else none

/-- Reads a run of digits, most significant first. -/
def readDigits (base acc : Nat) : List Char → Option Nat
  | [] => some acc
  | c :: cs =>
    match digitValue base c with
    | some d => readDigits base (acc * base + d) cs
    | none => none

/-- Reads a decimal or `0x` hexadecimal number (R104). -/
def readNumber : List Char → Option Nat
  | '0' :: 'x' :: d :: ds => readDigits 16 0 (d :: ds)
  | d :: ds => readDigits 10 0 (d :: ds)
  | [] => none

/-- Splits at every comma. -/
def splitAtCommas : List Char → List (List Char)
  | [] => [[]]
  | c :: cs =>
    match splitAtCommas cs with
    | [] => [[c]]
    | part :: parts => if c = ',' then [] :: part :: parts else (c :: part) :: parts

/-- Drops the blanks before and after an operand. -/
def trimBlanks (cs : List Char) : List Char :=
  ((cs.dropWhile (· == ' ')).reverse.dropWhile (· == ' ')).reverse

/-- The mnemonics as they are spelled, in upper case (R104). -/
def spelledMnemonics : List (List Char × Mnemonic) :=
  [ (['N', 'O', 'P'], .nop),
    (['A', 'D', 'C', '_', 'C', 'F', 'G'], .adcCfg),
    (['A', 'D', 'C', '_', 'S', 'T', 'A', 'R', 'T'], .adcStart),
    (['P', 'W', 'M', '_', 'C', 'F', 'G'], .pwmCfg),
    (['P', 'W', 'M', '_', 'S', 'E', 'T', 'D', 'U', 'T', 'Y'], .pwmSetDuty) ]

/-- Reads the operands after a mnemonic: none where only blanks follow it. -/
def readOperands (cs : List Char) : Option (List Nat) :=
  if trimBlanks cs = [] then some [] else ((splitAtCommas cs).map trimBlanks).mapM readNumber

/-- Reads a line of assembler text (R104). -/
def parseAsm (line : List Char) : Option AsmCommand :=
  let cs := trimBlanks line
  let name := cs.takeWhile (· != ' ')
  match spelledMnemonics.lookup name, readOperands (cs.dropWhile (· != ' ')) with
  | some m, some ops => some ⟨m, ops⟩
  | _, _ => none

/-- A line of assembler text to its command word (R104); none where an assembler must refuse it. -/
def assembleLine (line : List Char) : Option Word :=
  ((parseAsm line).bind assemble).map encode

/-- What the decoder reads from an instruction whose bits are `w`, numbered as spec/opcode_table.json numbers them: bit 0 is
the least significant bit of the one 32-bit word a command is (R90, R72). Bits at or above `nbits` are zero; nothing longer
than a word is a command. -/
def decodeTableWord (nbits w : Nat) : Option Instr :=
  if nbits ≤ 32 then
    match decode (BitVec.ofNat 32 (w % 2 ^ nbits)) with
    | .ok i => some i
    | .error _ => none
  else none

end Sys2Proof
end

