-- ==== Sys2Proof/Machine/Event.lean ====
section
/-! DEFINITION. The steps of the seven agents (spec/00_scope.md R5): the host's, which present a command word, and the twelve
other step kinds, which have no encoding and are written by their names (spec/30_encoding.md R105). -/

namespace Sys2Proof.Machine

/-- The seven agents (R5). -/
inductive Agent where
  | host
  | adc
  | isr
  | cdc
  | loop
  | tmr
  | rst
deriving DecidableEq, Repr

/-- The steps of the agents other than `HOST` (R5, R105). -/
inductive InternalStep where
  /-- Agent `ADC`: the converter reports one completion with the result `r`, a free draw (R150, R151). -/
  | convComplete (r : Half)
  /-- Agent `ISR`: the completion handler runs (R152). -/
  | irqService
  /-- Agent `CDC`, sending side: the waiting value is launched (R155). -/
  | cdcRelaunch
  /-- Agent `CDC`, receiving side: the request toggle leaves its synchroniser (R156). -/
  | cdcSyncReq
  /-- Agent `CDC`, receiving side: the held value is captured into `SAMPLE` (R157). -/
  | cdcCapture
  /-- Agent `CDC`, sending side: the acknowledge toggle leaves its synchroniser (R158). -/
  | cdcSyncAck
  /-- Agent `LOOP`: the snapshot of the sample (R185). -/
  | loopSnap
  /-- Agent `LOOP`: the multiply (R186). -/
  | loopMul
  /-- Agent `LOOP`: the divide (R187). -/
  | loopDiv
  /-- Agent `LOOP`: the duty is applied (R189). -/
  | loopApply
  /-- Agent `TMR`: one count (R200). -/
  | pwmTick
  /-- Agent `RST`: power-on reset (R250). -/
  | reset
deriving DecidableEq, Repr, Inhabited

/-- One step of one agent (R6): the host presents any 32-bit word, or another agent takes one of its steps. -/
inductive Event where
  | host (cmd : Word)
  | internal (a : InternalStep)
deriving DecidableEq, Repr, Inhabited

/-- The agent whose step it is (R5). -/
def InternalStep.agent : InternalStep → Agent
  | .convComplete _ => .adc
  | .irqService => .isr
  | .cdcRelaunch | .cdcSyncReq | .cdcCapture | .cdcSyncAck => .cdc
  | .loopSnap | .loopMul | .loopDiv | .loopApply => .loop
  | .pwmTick => .tmr
  | .reset => .rst

/-- The agents whose steps are taken fairly: "weak fairness of the `CDC`, `ISR`, `LOOP` and `TMR` steps" (R6). The host, the
converter and reset owe no progress. -/
def Agent.isFair : Agent → Bool
  | .isr | .cdc | .loop | .tmr => true
  | .host | .adc | .rst => false

end Sys2Proof.Machine
end

