-- ==== Sys2Proof/Config.lean ====
section
/-! DEFINITION. What is fixed for the machine and what the spec leaves free (spec/00_scope.md R8, spec/93_implementation_defined.md).
The tables and literals of R8 that the steps use stand in Sys2Proof/Machine/Params.lean. -/

namespace Sys2Proof

/-- `SAMPLE_RESET`, the value of `SAMPLE` after reset: 0x0000 (R8, R20, R250). Log entry 6. -/
def Config.sampleReset : Half := 0x0000#16

/-- `IRQ_PRIO`, the priority of the completion interrupt: OPEN, any natural number, read by no rule (R8, R225). It has no
body, so nothing can be proved of its value. Log entry 5. -/
opaque Config.irqPrio : Nat

/-- The step that goes next where `State.sched` fixes none: which agent moves, which word the host presents and which value
the converter draws are all free (R6, R151; U8 and U11). It has no body, so a claim holds whatever it answers.
Log entry 3. -/
opaque Config.freeEvent : Nat → Machine.Event

end Sys2Proof
end

