-- ==== Sys2Proof/Machine/State.lean ====
section
/-! DEFINITION. The state: the 26 registers of spec/10_state.md R20, "and no others", and beside them the model's own fields
for what R51 calls the inputs, the outputs and the premise of a step. Plain data throughout. -/

namespace Sys2Proof.Machine

/-- The response of a host step, by name (spec/60_exceptions.md R220). The 4-bit codes are `Response.code`. -/
inductive Response where
  | ok
  | rejChannel
  | rejAvg
  | errDutyRange
  | rejPeriod
  | rejSeq
  | errIllegal
deriving DecidableEq, Repr

/-- The faults of PWMCTL: none. "There is no trap, no hang and no undefined behaviour on any word" (R101) and "there is no
fault bit" (R238), so the type has no constructor and no step can answer a fault. -/
inductive Fault where
deriving DecidableEq, Repr

/-- Why the model gives a step no meaning. -/
inductive Refusal where
  /-- An arm of `exec` that has no meaning yet. No arm answers it. Safe: a refused step proves nothing. -/
  | notModelled (mnemonic : String)
  /-- Raised by every step, of the host or of another agent, in a state whose launch premise `CLOCKS_READY` does not hold: the
  spec says nothing of the block then and wants no behaviour given (R11, U12, N14). Safe: a refused step proves nothing.
  Log entry 4. -/
  | clocksNotReady
deriving DecidableEq, Repr

/-- The registers r0 to r25 of R20, in its order, each at its width (R72). -/
structure Regs where
  /-- r0 `ADC_CTRL` (R23). -/
  adcCtrl : BitVec 12
  /-- r1 `ADC_SEL` (R30). -/
  adcSel : BitVec 4
  /-- r2 `STARTED` (R29). -/
  started : Bit
  /-- r3 `IRQ_EN` (R28). -/
  irqEn : Bit
  /-- r4 `PIN_ANALOG`, one bit per channel (R31). -/
  pinAnalog : BitVec 6
  /-- r5 `PIN_PWM` (R32). -/
  pinPwm : Bit
  /-- r6 `PWM_CTRL` (R33). -/
  pwmCtrl : BitVec 9
  /-- r7 `PERIOD` (R35). -/
  period : Half
  /-- r8 `MOD` (R36). -/
  mod : Half
  /-- r9 `CMP` (R37). -/
  cmp : Half
  /-- r10 `SAMPLE` (R45). -/
  sample : Half
  /-- r11 `REQ_M` (R44). -/
  reqM : Bit
  /-- r12 `ACK` (R44). -/
  ack : Bit
  /-- r13 `LPHASE` (R46). -/
  lphase : BitVec 2
  /-- r14 `SNAP` (R47). -/
  snap : Half
  /-- r15 `PROD` (R48). -/
  prod : BitVec 32
  /-- r16 `DUTYQ` (R49). -/
  dutyq : Half
  /-- r17 `CNT` (R38). -/
  cnt : Half
  /-- r18 `CONV` (R39). -/
  conv : Bit
  /-- r19 `RESULT` (R40). -/
  result : Half
  /-- r20 `COCO` (R41). -/
  coco : Bit
  /-- r21 `HOLD` (R42). -/
  hold : Half
  /-- r22 `PEND` (R43). -/
  pend : Half
  /-- r23 `PEND_V` (R43). -/
  pendV : Bit
  /-- r24 `REQ` (R44). -/
  req : Bit
  /-- r25 `ACK_S` (R44). -/
  ackS : Bit
deriving DecidableEq, Repr

/-- Every register at its reset value (R20, R250). -/
def Regs.reset : Regs where
  adcCtrl := 0x000#12
  adcSel := 0x0#4
  started := 0#1
  irqEn := 0#1
  pinAnalog := 0b000000#6
  pinPwm := 0#1
  pwmCtrl := 0x000#9
  period := 0x0000#16
  mod := 0x0000#16
  cmp := 0x0000#16
  sample := Config.sampleReset
  reqM := 0#1
  ack := 0#1
  lphase := 0#2
  snap := 0x0000#16
  prod := 0x00000000#32
  dutyq := 0x0000#16
  cnt := 0x0000#16
  conv := 0#1
  result := 0x0000#16
  coco := 0#1
  hold := 0x0000#16
  pend := 0x0000#16
  pendV := 0#1
  req := 0#1
  ackS := 0#1

/-- The whole state of the model. `regs` is all the state the spec gives PWMCTL (R20); the other four fields are the model's
own (R51) and no step of the hardware reads `rsp`. -/
structure State where
  /-- The 26 registers. -/
  regs : Regs
  /-- The response port `rsp` (R71) as the step just taken left it: the code of a host step, nothing after a step of another
  agent. Every step overwrites it and no step reads it, so nothing is latched (R221). Log entry 1. -/
  rsp : Option Response
  /-- Whether the launch premise `CLOCKS_READY` holds (R11). No step changes it. Log entry 4. -/
  clocksReady : Bool
  /-- The next steps the environment has fixed, the first one first: a schedule in the sense of R105. Log entry 2. -/
  sched : List Event
  /-- How many steps have been taken; picks a fresh free choice of the next step where `sched` is empty. Log entry 3. -/
  turn : Nat
deriving DecidableEq, Repr

/-- The outcome of one step. -/
abbrev StepOutcome := Host.Outcome State Fault Refusal

/-- The machine right after reset (R250, R251): every register at its reset value, no response pending, the launch premise
met, no step fixed yet. -/
def State.reset : State where
  regs := Regs.reset
  rsp := none
  clocksReady := true
  sched := []
  turn := 0

end Sys2Proof.Machine
end

