-- ==== Sys2Proof/Machine/Flags.lean ====
section
/-! DEFINITION. The fields of the control registers (spec/10_state.md R23, R33), the words the two configuring commands build
from them, the derived signals (R55 to R58) and the output ports (spec/20_memory.md R71). PWMCTL has no condition codes
(R50): its flags are one-bit registers, written by the steps themselves. -/

namespace Sys2Proof.Machine

/-! Fields of `ADC_CTRL` (R23). -/

/-- Bit 0: the converter is powered and configured (R24). -/
def AdcCtrl.pwr (c : BitVec 12) : Bit := c.extractLsb' 0 1
/-- Bit 1: low-power timing selected. -/
def AdcCtrl.lpwr (c : BitVec 12) : Bit := c.extractLsb' 1 1
/-- Bit 2: long-sample timing selected. -/
def AdcCtrl.lsmp (c : BitVec 12) : Bit := c.extractLsb' 2 1
/-- Bit 3: 16-bit single-ended conversion mode. -/
def AdcCtrl.m16 (c : BitVec 12) : Bit := c.extractLsb' 3 1
/-- Bit 4: the converter raises its completion interrupt. -/
def AdcCtrl.ien (c : BitVec 12) : Bit := c.extractLsb' 4 1
/-- Bit 5: continuous-conversion mode. -/
def AdcCtrl.cont (c : BitVec 12) : Bit := c.extractLsb' 5 1
/-- Bit 6: hardware averaging enabled. -/
def AdcCtrl.avge (c : BitVec 12) : Bit := c.extractLsb' 6 1
/-- Bits 8:7: averaging depth code (R26). -/
def AdcCtrl.avgs (c : BitVec 12) : BitVec 2 := c.extractLsb' 7 2
/-- Bits 11:9: the configured channel (R27). -/
def AdcCtrl.ch (c : BitVec 12) : BitVec 3 := c.extractLsb' 9 3

/-- `ADC_CTRL` as a successful `ADC_CFG` leaves it: the five fixed fields 1, the others from the operands (R23, R121). -/
def AdcCtrl.configured (cont avge : Bit) (avgs : BitVec 2) (ch : BitVec 3) : BitVec 12 :=
  ch ++ avgs ++ avge ++ cont ++ 1#1 ++ 1#1 ++ 1#1 ++ 1#1 ++ 1#1

/-! Fields of `PWM_CTRL` (R33). -/

/-- Bit 0: the pulse timer is powered. -/
def PwmCtrl.pwr (c : BitVec 9) : Bit := c.extractLsb' 0 1
/-- Bit 1: a count clock source is selected. -/
def PwmCtrl.clksel (c : BitVec 9) : Bit := c.extractLsb' 1 1
/-- Bit 2: up-counting. -/
def PwmCtrl.upcnt (c : BitVec 9) : Bit := c.extractLsb' 2 1
/-- Bits 5:3: prescale select, 0 for no division. -/
def PwmCtrl.ps (c : BitVec 9) : BitVec 3 := c.extractLsb' 3 3
/-- Bit 6: edge-aligned output. -/
def PwmCtrl.edge (c : BitVec 9) : Bit := c.extractLsb' 6 1
/-- Bit 7: high-true output. -/
def PwmCtrl.htrue (c : BitVec 9) : Bit := c.extractLsb' 7 1
/-- Bit 8: the counter is started (R34). -/
def PwmCtrl.run (c : BitVec 9) : Bit := c.extractLsb' 8 1

/-- `PWM_CTRL` as a successful `PWM_CFG` leaves it, field by field from bit 8 down (R33, R123). -/
def PwmCtrl.configured : BitVec 9 :=
  1#1 ++ 1#1 ++ 1#1 ++ 0b000#3 ++ 1#1 ++ 1#1 ++ 1#1

/-! Derived signals. -/

/-- `irq := COCO and ADC_CTRL.IEN and IRQ_EN` (R55). -/
def irq (r : Regs) : Bool :=
  r.coco == 1#1 && AdcCtrl.ien r.adcCtrl == 1#1 && r.irqEn == 1#1

/-- `running := ADC_CTRL.PWR and PWM_CTRL.RUN and STARTED` (R56). -/
def running (r : Regs) : Bool :=
  AdcCtrl.pwr r.adcCtrl == 1#1 && PwmCtrl.run r.pwmCtrl == 1#1 && r.started == 1#1

/-- `pwm_out := PWM_CTRL.RUN and PIN_PWM and (CNT < CMP)`, unsigned (R57, R202). -/
def pwmOut (r : Regs) : Bool :=
  PwmCtrl.run r.pwmCtrl == 1#1 && r.pinPwm == 1#1 && decide (r.cnt < r.cmp)

/-- `cdc_idle := (REQ = ACK_S)` (R58). -/
def cdcIdle (r : Regs) : Bool :=
  r.req == r.ackS

/-- The 4-bit code of a response (R220); 0x6 and 0x8 to 0xF are the code of none. -/
def Response.code : Response → BitVec 4
  | .ok => 0x0#4
  | .rejChannel => 0x1#4
  | .rejAvg => 0x2#4
  | .errDutyRange => 0x3#4
  | .rejPeriod => 0x4#4
  | .rejSeq => 0x5#4
  | .errIllegal => 0x7#4

/-- The output ports of R71. -/
structure Outputs where
  rsp : Option (BitVec 4)
  adcSel : BitVec 4
  adcGo : Bit
  adcCfg : BitVec 12
  irq : Bit
  pinAnalog : BitVec 6
  pinPwm : Bit
  pwmOut : Bit
deriving DecidableEq, Repr

/-- The output ports as functions of the state (R71). -/
def outputs (s : State) : Outputs where
  rsp := s.rsp.map Response.code
  adcSel := s.regs.adcSel
  adcGo := s.regs.conv
  adcCfg := s.regs.adcCtrl
  irq := BitVec.ofBool (irq s.regs)
  pinAnalog := s.regs.pinAnalog
  pinPwm := s.regs.pinPwm
  pwmOut := BitVec.ofBool (pwmOut s.regs)

end Sys2Proof.Machine
end

