-- ==== Sys2Proof/Machine/Ops.lean ====
section
/-! DEFINITION. The operations the steps share: choosing the next step, answering the host, rejecting a command (the spec's
synchronous exceptional event), taking the completion interrupt (its asynchronous one), the sending half of the handoff,
and the write of the compare register. -/

namespace Sys2Proof.Machine

/-! The next step. -/

/-- The step that goes next: the first the environment has fixed, or else a free one (R6). -/
def State.nextEvent (s : State) : Event :=
  match s.sched with
  | e :: _ => e
  | [] => Config.freeEvent s.turn

/-- The state in which the chosen step runs: the choice is used up and the response port no longer carries the code of an
earlier step (R51, R221). -/
def State.take (s : State) : State :=
  { s with sched := s.sched.tail, turn := s.turn + 1, rsp := none }

/-- The host presents a word as the next step (R14, R71). -/
def State.present (cmd : Word) (s : State) : State :=
  { s with sched := Event.host cmd :: s.sched }

/-- The step `e` goes next, in place of the one the state would take (R6: "any agent whose step is enabled may go next"). -/
def State.choose (e : Event) (s : State) : State :=
  { s with sched := e :: s.sched.tail }

/-! Host steps. -/

/-- A step that leaves the registers `r` and the response port `rsp`, under the launch premise `CLOCKS_READY`; without it the
spec gives no behaviour (R11). -/
def finish (rsp : Option Response) (r : Regs) (s : State) : StepOutcome :=
  if s.clocksReady then .next { s with regs := r, rsp := rsp } else .refused .clocksNotReady

/-- An accepted command: the registers `r`, and `rsp <- OK` (R220). -/
def accept (r : Regs) (s : State) : StepOutcome :=
  finish (some .ok) r s

/-- `raise <Code>`: "make no further state change, set `rsp <- <Code>`, end the step" (R9). A rejected command changes no
register and nothing is latched (R221); it is no trap: nothing is saved and control goes nowhere (R222). -/
def raise (code : Response) (s : State) : StepOutcome :=
  finish (some code) s.regs s

/-! The sending half of the handoff. -/

/-- A transfer of `v` is launched: `HOLD <- v`, `PEND_V <- 0`, `REQ <- ~REQ` (R154 idle branch, R155). -/
def launch (v : Half) (r : Regs) : Regs :=
  { r with hold := v, pendV := 0#1, req := ~~~r.req }

/-- A value waits while a transfer is in flight: `PEND <- v`, `PEND_V <- 1` (R154 else branch). -/
def park (v : Half) (r : Regs) : Regs :=
  { r with pend := v, pendV := 1#1 }

/-- `PUBLISH(v)` (R154). -/
def publish (v : Half) (r : Regs) : Regs :=
  if cdcIdle r then launch v r else park v r

/-! The completion interrupt. -/

/-- Taking the completion interrupt, whole: read `RESULT`, clear `COCO`, publish the value read (R152, R228). No state is
saved, no mode or mask changes and control goes to no address (R228); there is no return operation, because nothing needs
restoring (R230). -/
def takeInterrupt (r : Regs) : Regs :=
  publish r.result { r with coco := 0#1 }

/-! The compare register. -/

/-- The write of the active compare register, shared by `PWM_SETDUTY` and `LOOP_APPLY` (R124, R189). -/
def writeDuty (d : Half) (r : Regs) : Regs :=
  { r with cmp := d }

end Sys2Proof.Machine
end

