-- ==== Sys2Proof/Machine/Handoff.lean ====
section
/-! DEFINITION. The four handoff steps (spec/41_sampler_and_handoff.md R155 to R158). Each answers none where it is not
enabled. -/

namespace Sys2Proof.Machine

/-- `CDC_RELAUNCH`, enabled when `REQ = ACK_S and PEND_V = 1` (R155). -/
def cdcRelaunch (r : Regs) : Option Regs :=
  if cdcIdle r ∧ r.pendV = 1#1 then some (launch r.pend r) else none

/-- `CDC_SYNC_REQ`, enabled when `REQ_M != REQ` (R156). -/
def cdcSyncReq (r : Regs) : Option Regs :=
  if r.reqM ≠ r.req then some { r with reqM := r.req } else none

/-- `CDC_CAPTURE`, enabled when `REQ_M != ACK` (R157): all 16 bits of `SAMPLE` in one step. -/
def cdcCapture (r : Regs) : Option Regs :=
  if r.reqM ≠ r.ack then some { r with sample := r.hold, ack := r.reqM } else none

/-- `CDC_SYNC_ACK`, enabled when `ACK_S != ACK` (R158). -/
def cdcSyncAck (r : Regs) : Option Regs :=
  if r.ackS ≠ r.ack then some { r with ackS := r.ack } else none

end Sys2Proof.Machine
end

