-- ==== Sys2Proof/Machine/Params.lean ====
section
/-! DEFINITION. The parameters and tables of spec/00_scope.md R8 that the steps use, each literal in one place, so that a
corrected literal changes one place (spec/93_implementation_defined.md U9). -/

namespace Sys2Proof.Machine

/-- `N_CHANNELS`: channels 0 to 5 (R8). -/
def nChannels : Nat := 6

/-- `SELCODE`, the channel-to-select-code table of R30. "`SELCODE` is undefined for `ch > 5` and is never applied to such a
value": it answers none there. -/
def selCode (ch : BitVec 8) : Option (BitVec 4) :=
  match ch.toNat with
  | 0 => some 0x8#4
  | 1 => some 0x9#4
  | 2 => some 0xC#4
  | 3 => some 0xD#4
  | 4 => some 0xB#4
  | 5 => some 0xF#4
  | _ => none

/-- `AVGS_OF`, the two-bit code of an averaging depth (R26). "It is undefined for every other `count`": it answers none
there. -/
def avgsOf (count : BitVec 8) : Option (BitVec 2) :=
  match count.toNat with
  | 4 => some 0b00#2
  | 8 => some 0b01#2
  | 16 => some 0b10#2
  | 32 => some 0b11#2
  | _ => none

/-- The counts `ADC_CFG` may carry: {0, 4, 8, 16, 32} (R121 check 3). -/
def legalCounts : List Nat := [0, 4, 8, 16, 32]

/-- `SCALE_DIVISOR` (R8, R180). -/
def scaleDivisor : BitVec 32 := 65535#32

/-- The greatest duty value the 16-bit compare register holds (R124). -/
def maxDuty : Nat := 65535

end Sys2Proof.Machine
end

