-- ==== Sys2Proof/Machine/Operands.lean ====
section
/-! DEFINITION. What the operands of the host commands are checked for and what they become in the registers
(spec/40_host_commands.md R121 to R124), and the arithmetic of the scaler (spec/42_scaler_and_loop.md R180, R183). -/

namespace Sys2Proof.Machine

/-- `ch > 5`, the channel check of `ADC_CFG` and `ADC_START` (R121 check 2, R122 check 2). -/
def channelOutOfRange (ch : BitVec 8) : Bool :=
  decide (nChannels ≤ ch.toNat)

/-- `ch[2:0]`, what is compared with or written to `ADC_CTRL.CH` (R121, R122). -/
def channelField (ch : BitVec 8) : BitVec 3 :=
  ch.extractLsb' 0 3

/-- The bit of `PIN_ANALOG` that belongs to a channel (R31). -/
def channelPin (ch : BitVec 8) : BitVec 6 :=
  1#6 <<< ch.toNat

/-- `ADC_CTRL.AVGS` for the operands `avg` and `count`, or none where checks 3 and 4 of R121 reject them: a count outside
{0, 4, 8, 16, 32} always, a count of 0 with averaging on; with averaging off a legal count is ignored. -/
def avgsField (avg : Bit) (count : BitVec 8) : Option (BitVec 2) :=
  if count.toNat ∉ legalCounts then none
  else if avg = 1#1 then avgsOf count
  else some 0b00#2

/-- `duty > 65535` (R124). -/
def dutyOutOfRange (duty : BitVec 28) : Bool :=
  decide (maxDuty < duty.toNat)

/-- `duty[15:0]` (R124). -/
def dutyField (duty : BitVec 28) : Half :=
  duty.extractLsb' 0 16

/-- The multiplier: 16 by 16 to 32 bits, unsigned (R180, R186). -/
def mulStage (period sample : Half) : BitVec 32 :=
  period.setWidth 32 * sample.setWidth 32

/-- The divider by the constant 65535, bits 15:0 of the quotient, the remainder discarded (R180, R187). -/
def divStage (prod : BitVec 32) : Half :=
  (prod / scaleDivisor).extractLsb' 0 16

/-- `SCALE(period, sample)` (R180). -/
def scale (period sample : Half) : Half :=
  divStage (mulStage period sample)

/-- The counter's next value: back to 0 at `MOD`, else one more (R200). -/
def nextCount (cnt mod : Half) : Half :=
  if cnt = mod then 0x0000#16 else cnt + 1#16

end Sys2Proof.Machine
end

