-- ==== Sys2Proof/Machine/Loop.lean ====
section
/-! DEFINITION. The control loop (spec/42_scaler_and_loop.md R184 to R189): four steps, enabled while `running = 1`, selected by
`LPHASE`. Each answers none where it is not enabled. -/

namespace Sys2Proof.Machine

/-- `LOOP_SNAP` (R185), the one read of `SAMPLE` in an iteration. -/
def loopSnap (r : Regs) : Option Regs :=
  if running r ∧ r.lphase = 0#2 then some { r with snap := r.sample, lphase := 1#2 } else none

/-- `LOOP_MUL` (R186). -/
def loopMul (r : Regs) : Option Regs :=
  if running r ∧ r.lphase = 1#2 then some { r with prod := mulStage r.period r.snap, lphase := 2#2 } else none

/-- `LOOP_DIV` (R187). -/
def loopDiv (r : Regs) : Option Regs :=
  if running r ∧ r.lphase = 2#2 then some { r with dutyq := divStage r.prod, lphase := 3#2 } else none

/-- `LOOP_APPLY` (R189): the write of `PWM_SETDUTY` with the computed duty. -/
def loopApply (r : Regs) : Option Regs :=
  if running r ∧ r.lphase = 3#2 then some { writeDuty r.dutyq r with lphase := 0#2 } else none

end Sys2Proof.Machine
end

