-- ==== Sys2Proof/Machine/PwmTimer.lean ====
section
/-! DEFINITION. The pulse timer: `PWM_CFG` and `PWM_SETDUTY` (spec/40_host_commands.md R123, R124) and the counter's step
(spec/43_pwm_timer.md R200). -/

namespace Sys2Proof.Machine

/-- The registers after a successful `PWM_CFG` (R123). -/
def configureTimer (period : Half) (r : Regs) : Regs :=
  { r with
    pwmCtrl := PwmCtrl.configured
    mod := period - 1#16
    period := period
    pinPwm := 1#1
    cmp := 0x0000#16
    cnt := 0x0000#16 }

/-- `PWM_CFG period` (R123); the checks in the order of R126. -/
def execPwmCfg (period : Half) (s : State) : StepOutcome :=
  if PwmCtrl.run s.regs.pwmCtrl = 1#1 then raise .rejSeq s
  else if period = 0#16 then raise .rejPeriod s
  else accept (configureTimer period s.regs) s

/-- `PWM_SETDUTY duty` (R124): the value is passed through, not clamped to `PERIOD`, and the command is accepted in every
state. -/
def execPwmSetDuty (duty : BitVec 28) (s : State) : StepOutcome :=
  if dutyOutOfRange duty then raise .errDutyRange s
  else accept (writeDuty (dutyField duty) s.regs) s

/-- `PWM_TICK`, enabled when `PWM_CTRL.RUN = 1` (R200, R201). -/
def pwmTick (r : Regs) : Option Regs :=
  if PwmCtrl.run r.pwmCtrl = 1#1 then some { r with cnt := nextCount r.cnt r.mod } else none

end Sys2Proof.Machine
end

