-- ==== Sys2Proof/Machine/Sampler.lean ====
section
/-! DEFINITION. The sampler: `ADC_CFG` and `ADC_START` (spec/40_host_commands.md R121, R122), the converter's completion and the
handler (spec/41_sampler_and_handoff.md R150, R152). -/

namespace Sys2Proof.Machine

/-- The registers after a successful `ADC_CFG` (R121). -/
def configureSampler (ch : BitVec 8) (cont avg : Bit) (avgs : BitVec 2) (r : Regs) : Regs :=
  { r with
    adcCtrl := AdcCtrl.configured cont avg avgs (channelField ch)
    irqEn := 1#1
    pinAnalog := r.pinAnalog ||| channelPin ch }

/-- `ADC_CFG ch, cont, avg, count` (R121); the checks in the order of R126. -/
def execAdcCfg (ch : BitVec 8) (cont avg : Bit) (count : BitVec 8) (s : State) : StepOutcome :=
  if AdcCtrl.pwr s.regs.adcCtrl = 1#1 then raise .rejSeq s
  else if channelOutOfRange ch then raise .rejChannel s
  else
    match avgsField avg count with
    | none => raise .rejAvg s
    | some avgs => accept (configureSampler ch cont avg avgs s.regs) s

/-- The registers after an accepted `ADC_START` (R122). -/
def startConversion (sel : BitVec 4) (r : Regs) : Regs :=
  { r with adcSel := sel, conv := 1#1, started := 1#1 }

/-- `ADC_START ch` (R122); the checks in the order of R126. Check 2 rejects exactly the channels for which `SELCODE` is
undefined (R30), so it is the table's answering none. -/
def execAdcStart (ch : BitVec 8) (s : State) : StepOutcome :=
  if AdcCtrl.pwr s.regs.adcCtrl = 0#1 then raise .rejSeq s
  else
    match selCode ch with
    | none => raise .rejChannel s
    | some sel =>
      if channelField ch ≠ AdcCtrl.ch s.regs.adcCtrl then raise .rejSeq s
      else accept (startConversion sel s.regs) s

/-- `CONV_COMPLETE(v)`, enabled when `CONV = 1` (R150): a completion that finds `COCO = 1` overwrites `RESULT`. -/
def convComplete (v : Half) (r : Regs) : Option Regs :=
  if r.conv = 1#1 then some { r with result := v, coco := 1#1, conv := AdcCtrl.cont r.adcCtrl } else none

/-- `IRQ_SERVICE`, enabled when `irq = 1` (R152, R226). -/
def irqService (r : Regs) : Option Regs :=
  if irq r then some (takeInterrupt r) else none

end Sys2Proof.Machine
end

