-- ==== Sys2Proof/Machine/Agents.lean ====
section
/-! DEFINITION. The steps of the agents other than the host, gathered (spec/00_scope.md R5): what each does to the registers
where it is enabled, and how it runs as a step of the model. -/

namespace Sys2Proof.Machine

/-- `RESET`, enabled at any time: every register takes its reset value, all in one step (R250, R252). -/
def resetStep (_ : Regs) : Option Regs :=
  some Regs.reset

/-- The registers after a step of an agent; none where the step is not enabled (R6). -/
def internalStep : InternalStep → Regs → Option Regs
  | .convComplete v, r => convComplete v r
  | .irqService, r => irqService r
  | .cdcRelaunch, r => cdcRelaunch r
  | .cdcSyncReq, r => cdcSyncReq r
  | .cdcCapture, r => cdcCapture r
  | .cdcSyncAck, r => cdcSyncAck r
  | .loopSnap, r => loopSnap r
  | .loopMul, r => loopMul r
  | .loopDiv, r => loopDiv r
  | .loopApply, r => loopApply r
  | .pwmTick, r => pwmTick r
  | .reset, r => resetStep r

/-- A step of an agent is enabled (R6). -/
def enabled (a : InternalStep) (r : Regs) : Bool :=
  (internalStep a r).isSome

/-- A step of an agent as a step of the model: it gives no response, and where it is not enabled the turn passes and no
register changes (log entry 2). -/
def runInternal (a : InternalStep) (s : State) : StepOutcome :=
  match internalStep a s.regs with
  | some r => finish none r s
  | none => finish none s.regs s

end Sys2Proof.Machine
end

