-- ==== Sys2Proof/Machine/Nop.lean ====
section
/-! DEFINITION. The two host steps that change no register: `NOP` and an illegal word. -/

namespace Sys2Proof.Machine

/-- `NOP` (R120). -/
def execNop (s : State) : StepOutcome :=
  accept s.regs s

/-- A word that matches no row of R98 (R125): `rsp <- ERR_ILLEGAL`. -/
def illegalWord (s : State) : StepOutcome :=
  raise .errIllegal s

end Sys2Proof.Machine
end

