-- ==== Sys2Proof/Machine/Dispatch.lean ====
section
/-! DEFINITION. One arm per host command (spec/opcode_table.json). -/

namespace Sys2Proof.Machine

def exec (i : Instr) (s : State) : Host.Outcome State Fault Refusal :=
  match i with
  | .nop => Sys2Proof.Machine.execNop s
  | .adcCfg ch cont avg count => Sys2Proof.Machine.execAdcCfg ch cont avg count s
  | .adcStart ch => Sys2Proof.Machine.execAdcStart ch s
  | .pwmCfg period => Sys2Proof.Machine.execPwmCfg period s
  | .pwmSetDuty duty => Sys2Proof.Machine.execPwmSetDuty duty s

end Sys2Proof.Machine
end

