-- ==== Sys2Proof/Machine/Step.lean ====
section
/-! DEFINITION. One step of the machine (spec/00_scope.md R6): the step that goes next is taken, whole; a host step decodes its
word and runs it, an illegal word being "a host step like any other" (spec/30_encoding.md R101). -/

namespace Sys2Proof.Machine

def step (s : State) : Host.Outcome State Fault Refusal :=
  match s.nextEvent with
  | .host cmd =>
    match decode cmd with
    | .ok i => exec i s.take
    | .error _ => illegalWord s.take
  | .internal a => runInternal a s.take

/-- The state with a table word presented by the host as the very next step: PWMCTL fetches nothing (R81), so the next
instruction is the word on the command port (R70, R71). Bits at or above `nbits` are zero. Log entry 8. -/
def State.withFetchWord (s : State) (nbits w : Nat) : State :=
  s.present (BitVec.ofNat 32 (w % 2 ^ nbits))

end Sys2Proof.Machine
end

