-- ==== Sys2Proof/Machine/Runs.lean ====
section
/-! DEFINITION. Infinite runs and weak fairness (spec/00_scope.md R6, spec/70_reset_and_hazards.md R272). A run is an interleaving:
at each instant any step goes next, chosen from outside. Fairness is a premise on a run, never a part of the step: claims that
something eventually happens need it, claims about invariants do not (R272). Log entry 10. -/

namespace Sys2Proof.Machine

/-- The states `σ 0, σ 1, ...` are a run in which the step `ε n` goes next in `σ n`. Every step of it answered a next state, so
`CLOCKS_READY` holds throughout (R11). -/
def IsRun (σ : Nat → State) (ε : Nat → Event) : Prop :=
  ∀ n, step ((σ n).choose (ε n)) = .next (σ (n + 1))

/-- Weak fairness of a run: "a step of those agents that stays enabled is eventually taken" (R6). -/
def WeaklyFair (σ : Nat → State) (ε : Nat → Event) : Prop :=
  ∀ a : InternalStep, a.agent.isFair = true →
    ∀ n, (∀ m, n ≤ m → enabled a (σ m).regs = true) → ∃ m, n ≤ m ∧ ε m = .internal a

end Sys2Proof.Machine
end

