-- ==== Sys2Proof/Safety.lean ====
section
/-! DEFINITION. The terms claims are stated in: the register table of spec/10_state.md R20 (names, clock domains, writers), the
invariants of the four parts of the block, and what passes along the sample path during a run. There is no fault to be safe
from (spec/60_exceptions.md R238). -/

namespace Sys2Proof.Machine

/-! The register table. -/

/-- The registers r0 to r25 by name (R20). -/
inductive RegName where
  | adcCtrl | adcSel | started | irqEn | pinAnalog | pinPwm | pwmCtrl | period | mod | cmp | sample | reqM | ack
  | lphase | snap | prod | dutyq | cnt | conv | result | coco | hold | pend | pendV | req | ackS
deriving DecidableEq, Repr

/-- The value of a register as a number. -/
def RegName.val : RegName → Regs → Nat
  | .adcCtrl, r => r.adcCtrl.toNat
  | .adcSel, r => r.adcSel.toNat
  | .started, r => r.started.toNat
  | .irqEn, r => r.irqEn.toNat
  | .pinAnalog, r => r.pinAnalog.toNat
  | .pinPwm, r => r.pinPwm.toNat
  | .pwmCtrl, r => r.pwmCtrl.toNat
  | .period, r => r.period.toNat
  | .mod, r => r.mod.toNat
  | .cmp, r => r.cmp.toNat
  | .sample, r => r.sample.toNat
  | .reqM, r => r.reqM.toNat
  | .ack, r => r.ack.toNat
  | .lphase, r => r.lphase.toNat
  | .snap, r => r.snap.toNat
  | .prod, r => r.prod.toNat
  | .dutyq, r => r.dutyq.toNat
  | .cnt, r => r.cnt.toNat
  | .conv, r => r.conv.toNat
  | .result, r => r.result.toNat
  | .coco, r => r.coco.toNat
  | .hold, r => r.hold.toNat
  | .pend, r => r.pend.toNat
  | .pendV, r => r.pendV.toNat
  | .req, r => r.req.toNat
  | .ackS, r => r.ackS.toNat

/-- The three clock domains: sampler, main, timer (R7). -/
inductive ClockDomain where
  | samplerS
  | mainM
  | timerT
deriving DecidableEq, Repr

/-- The domain column of R20. -/
def RegName.domain : RegName → ClockDomain
  | .cnt => .timerT
  | .conv | .result | .coco | .hold | .pend | .pendV | .req | .ackS => .samplerS
  | .adcCtrl | .adcSel | .started | .irqEn | .pinAnalog | .pinPwm | .pwmCtrl | .period | .mod | .cmp | .sample
  | .reqM | .ack | .lphase | .snap | .prod | .dutyq => .mainM

/-- The 18 step kinds of R5. -/
inductive StepKind where
  | nop | adcCfg | adcStart | pwmCfg | pwmSetDuty | illegal
  | convComplete | irqService | cdcRelaunch | cdcSyncReq | cdcCapture | cdcSyncAck
  | loopSnap | loopMul | loopDiv | loopApply | pwmTick | reset
deriving DecidableEq, Repr

/-- The kind of a host command. -/
def Mnemonic.stepKind : Mnemonic → StepKind
  | .nop => .nop
  | .adcCfg => .adcCfg
  | .adcStart => .adcStart
  | .pwmCfg => .pwmCfg
  | .pwmSetDuty => .pwmSetDuty

/-- The kind of another agent's step. -/
def InternalStep.stepKind : InternalStep → StepKind
  | .convComplete _ => .convComplete
  | .irqService => .irqService
  | .cdcRelaunch => .cdcRelaunch
  | .cdcSyncReq => .cdcSyncReq
  | .cdcCapture => .cdcCapture
  | .cdcSyncAck => .cdcSyncAck
  | .loopSnap => .loopSnap
  | .loopMul => .loopMul
  | .loopDiv => .loopDiv
  | .loopApply => .loopApply
  | .pwmTick => .pwmTick
  | .reset => .reset

/-- The kind of a step: a host word is of the kind of the row it matches, or illegal. -/
def Event.stepKind : Event → StepKind
  | .host cmd =>
    match decode cmd with
    | .ok i => Mnemonic.stepKind i.mnemonic
    | .error _ => .illegal
  | .internal a => a.stepKind

/-- The column "written by" of R20. `RESET` writes every register beside them (R250). -/
def RegName.writers : RegName → List StepKind
  | .adcCtrl => [.adcCfg]
  | .adcSel => [.adcStart]
  | .started => [.adcStart]
  | .irqEn => [.adcCfg]
  | .pinAnalog => [.adcCfg]
  | .pinPwm => [.pwmCfg]
  | .pwmCtrl => [.pwmCfg]
  | .period => [.pwmCfg]
  | .mod => [.pwmCfg]
  | .cmp => [.pwmCfg, .pwmSetDuty, .loopApply]
  | .sample => [.cdcCapture]
  | .reqM => [.cdcSyncReq]
  | .ack => [.cdcCapture]
  | .lphase => [.loopSnap, .loopMul, .loopDiv, .loopApply]
  | .snap => [.loopSnap]
  | .prod => [.loopMul]
  | .dutyq => [.loopDiv]
  | .cnt => [.pwmTick, .pwmCfg]
  | .conv => [.adcStart, .convComplete]
  | .result => [.convComplete]
  | .coco => [.convComplete, .irqService]
  | .hold => [.irqService, .cdcRelaunch]
  | .pend => [.irqService]
  | .pendV => [.irqService, .cdcRelaunch]
  | .req => [.irqService, .cdcRelaunch]
  | .ackS => [.cdcSyncAck]

/-! Invariants. Each speaks of one part of the block; none assumes that the state was reached from reset. -/

/-- The sampler: unconfigured with every field of `ADC_CTRL` 0 (R24), or configured with the fixed fields 1, both interrupt
enables on, a legal channel, and that channel's pin alone switched to analog (R23, R26, R27, R28, R31); before the first
start no select code, no conversion and no completion (R29, R30); after it the select code of the configured channel. -/
def SamplerInv (r : Regs) : Prop :=
  ((r.adcCtrl = 0#12 ∧ r.irqEn = 0#1 ∧ r.pinAnalog = 0#6 ∧ r.started = 0#1) ∨
    (AdcCtrl.pwr r.adcCtrl = 1#1 ∧ AdcCtrl.lpwr r.adcCtrl = 1#1 ∧ AdcCtrl.lsmp r.adcCtrl = 1#1 ∧
      AdcCtrl.m16 r.adcCtrl = 1#1 ∧ AdcCtrl.ien r.adcCtrl = 1#1 ∧ r.irqEn = 1#1 ∧
      (AdcCtrl.avge r.adcCtrl = 0#1 → AdcCtrl.avgs r.adcCtrl = 0#2) ∧
      (AdcCtrl.ch r.adcCtrl).toNat ≤ 5 ∧ r.pinAnalog = 1#6 <<< (AdcCtrl.ch r.adcCtrl).toNat)) ∧
  (r.started = 0#1 → r.adcSel = 0#4 ∧ r.conv = 0#1 ∧ r.coco = 0#1) ∧
  (r.started = 1#1 → selCode ((AdcCtrl.ch r.adcCtrl).setWidth 8) = some r.adcSel)

/-- The timer: unconfigured and still, or running with `PWM_CTRL` = 0x1C7, a positive period, `MOD = PERIOD - 1`,
`CNT <= MOD` and the pin switched (R32 to R36, R38). -/
def TimerInv (r : Regs) : Prop :=
  (r.pwmCtrl = 0x000#9 ∧ r.period = 0#16 ∧ r.mod = 0#16 ∧ r.cnt = 0#16 ∧ r.pinPwm = 0#1) ∨
    (r.pwmCtrl = 0x1C7#9 ∧ r.period ≠ 0#16 ∧ r.mod = r.period - 1#16 ∧ r.cnt ≤ r.mod ∧ r.pinPwm = 1#1)

/-- The cycle of the handshake bits (`REQ`, `REQ_M`, `ACK`, `ACK_S`) (R160). -/
def handshakeCycle : List (Bit × Bit × Bit × Bit) :=
  [ (0#1, 0#1, 0#1, 0#1), (1#1, 0#1, 0#1, 0#1), (1#1, 1#1, 0#1, 0#1), (1#1, 1#1, 1#1, 0#1),
    (1#1, 1#1, 1#1, 1#1), (0#1, 1#1, 1#1, 1#1), (0#1, 0#1, 1#1, 1#1), (0#1, 0#1, 0#1, 1#1) ]

/-- The handoff: the handshake bits stand on their cycle (R160), and where the last launched value has been captured,
`SAMPLE` is that value. -/
def HandoffInv (r : Regs) : Prop :=
  (r.req, r.reqM, r.ack, r.ackS) ∈ handshakeCycle ∧ (r.ack = r.req → r.sample = r.hold)

/-- The loop: at rest at phase 0 while `Initializing` (R184); the product and the duty belong to the snapshot of the same
iteration (R188); the duty never exceeds the period (R49). -/
def LoopInv (r : Regs) : Prop :=
  (running r = false → r.lphase = 0#2) ∧
  (r.lphase = 2#2 → r.prod = mulStage r.period r.snap) ∧
  (r.lphase = 3#2 → r.prod = mulStage r.period r.snap ∧ r.dutyq = scale r.period r.snap) ∧
  r.dutyq ≤ r.period

/-! Runs. -/

/-- `n` steps of the machine. -/
def runSteps (n : Nat) (s : State) : StepOutcome :=
  Host.Core.run Sys2Proof.core n s

/-- The level of the output pin after `n` steps. -/
def pwmOutAfter (n : Nat) (s : State) : Bool :=
  match runSteps n s with
  | .next t => pwmOut t.regs
  | .fault _ => false
  | .refused _ => false

/-- The result of a conversion that completes in the next step (R150). -/
def completesNext (s : State) : List Half :=
  match s.nextEvent with
  | .internal (.convComplete v) => if s.regs.conv = 1#1 then [v] else []
  | _ => []

/-- The value the handler publishes in the next step (R152, R154). -/
def publishesNext (s : State) : List Half :=
  match s.nextEvent with
  | .internal .irqService => if irq s.regs then [s.regs.result] else []
  | _ => []

/-- The value captured into `SAMPLE` in the next step (R157). -/
def capturesNext (s : State) : List Half :=
  match s.nextEvent with
  | .internal .cdcCapture => if s.regs.reqM ≠ s.regs.ack then [s.regs.hold] else []
  | _ => []

/-- What an observer of single steps sees in `n` steps, in order. A step that does not answer a next state shows nothing. -/
def seenIn (next : State → List Half) : Nat → State → List Half
  | 0, _ => []
  | n + 1, s =>
    match step s with
    | .next t => next s ++ seenIn next n t
    | .fault _ => []
    | .refused _ => []

/-- A completed result the handler has not read yet. -/
def unserved (r : Regs) : List Half :=
  if r.coco = 1#1 then [r.result] else []

/-- The published values not yet captured, oldest first: the one in flight, then the one waiting (R154). -/
def inFlight (r : Regs) : List Half :=
  (if r.ack = r.req then [] else [r.hold]) ++ (if r.pendV = 1#1 then [r.pend] else [])

/-- The value that was published last, where every published value is still in the handoff or captured: the waiting one, or
else the held one (R163). -/
def newestPublished (r : Regs) : Half :=
  if r.pendV = 1#1 then r.pend else r.hold

end Sys2Proof.Machine
end

