-- ==== Sys2Proof/Certificates/Slice0/Obligations.lean ====
section
/-! DEFINITION. The statements for the provers. Every statement about a step of the machine has the launch premise
`CLOCKS_READY` as a hypothesis, as spec/00_scope.md R11 asks, or speaks of a step or a run of steps that answered a next state,
which none does without it. -/

open Sys2Proof Sys2Proof.Machine

/-! ### Encoding -/

/-- R90 to R92, R98: no bit of an encoding is dropped, for every command with every operand value. -/
def Obligations.DecodeOfEncodeIsIdentity : Prop :=
  ∀ i : Instr, decode (encode i) = .ok i

/-- R91, R102: a command has one encoding; a word that decodes is the encoding of what it decodes to. -/
def Obligations.EncodeOfDecodeIsIdentity : Prop :=
  ∀ (w : Word) (i : Instr), decode w = .ok i → encode i = w

/-- R99: each word matches exactly one row of R98 and decodes to a command of that row, or matches none and is illegal. -/
def Obligations.EachWordMatchesOneRowOrIsIllegal : Prop :=
  ∀ w : Word,
    (∃ row ∈ opcodeMap, row.selects w = true ∧ (∀ row' ∈ opcodeMap, row'.selects w = true → row' = row) ∧
      ∃ i, decode w = .ok i ∧ i.mnemonic = row.mnemonic) ∨
    ((∀ row ∈ opcodeMap, row.selects w = false) ∧ ∃ e, decode w = .error e)

/-- R101, R102, R125: a word whose `op` is 0x5 to 0xF, or 0x0 to 0x3 with a 1 in a reserved field of its format, is a host
step that changes no register and answers `ERR_ILLEGAL`; and every word that does not decode is one of these. -/
def Obligations.IllegalWordIsRejected : Prop :=
  ∀ w : Word,
    ((5 ≤ (w.extractLsb' 28 4).toNat ∨
        ((w.extractLsb' 28 4).toNat = 0 ∧ w.extractLsb' 0 28 ≠ 0#28) ∨
        ((w.extractLsb' 28 4).toNat = 1 ∧ (w.extractLsb' 24 4 ≠ 0#4 ∨ w.extractLsb' 10 6 ≠ 0#6)) ∨
        ((w.extractLsb' 28 4).toNat = 2 ∧ w.extractLsb' 8 20 ≠ 0#20) ∨
        ((w.extractLsb' 28 4).toNat = 3 ∧ w.extractLsb' 16 12 ≠ 0#12)) ↔ ∃ e, decode w = .error e) ∧
    ∀ (s : State) (e : DecodeError), s.clocksReady = true → s.nextEvent = .host w → decode w = .error e →
      step s = .next { s.take with rsp := some .errIllegal }

/-- R100: the worked encodings: each command encodes as the word given, and the word decodes to the command. -/
def Obligations.WorkedEncodingsDecode : Prop :=
  ([(.nop, 0x00000000#32), (.adcCfg 0#8 1#1 1#1 4#8, 0x10040300#32), (.adcStart 0#8, 0x20000000#32),
    (.adcStart 5#8, 0x20000005#32), (.pwmCfg 256#16, 0x30000100#32), (.pwmSetDuty 128#28, 0x40000080#32),
    (.pwmSetDuty 65536#28, 0x40010000#32)] : List (Instr × Word)).Forall
      fun p => encode p.1 = p.2 ∧ decode p.2 = .ok p.1

/-- R104: the assembler accepts exactly the written commands with the right number of operands, each fitting its field, and
what it answers is the command as written. -/
def Obligations.AssemblerAcceptsWhatFits : Prop :=
  (∀ a : AsmCommand, (assemble a).isSome = a.wellFormed) ∧
  (∀ (a : AsmCommand) (i : Instr), assemble a = some i → i.asm = a) ∧
  (∀ i : Instr, assemble i.asm = some i)

/-! ### Host commands -/

/-- R120: `NOP` is the single word 0x00000000, any other word with `op` = 0x0 is illegal, and `NOP` changes nothing and answers
`OK`. -/
def Obligations.NopAnswersOk : Prop :=
  (∀ s : State, s.clocksReady = true → exec .nop s = .next { s with rsp := some .ok }) ∧
  decode 0x00000000#32 = .ok .nop ∧
  ∀ w : Word, w.extractLsb' 28 4 = 0x0#4 → w ≠ 0x00000000#32 → ∃ e, decode w = .error e

/-- R121: `ADC_CFG`: its word and operands; where the four checks pass, it writes every field of `ADC_CTRL`, the interrupt enable
and the channel's pin bit, answers `OK`, and leaves every other register as it was; else the first check that fails gives
the code and nothing else changes. -/
def Obligations.AdcCfgConfiguresOrRejects : Prop :=
  (∀ w : Word, w.extractLsb' 28 4 = 0x1#4 →
    (w.extractLsb' 24 4 = 0#4 → w.extractLsb' 10 6 = 0#6 →
      decode w = .ok (.adcCfg (w.extractLsb' 0 8) (w.extractLsb' 8 1) (w.extractLsb' 9 1) (w.extractLsb' 16 8))) ∧
    (w.extractLsb' 24 4 ≠ 0#4 ∨ w.extractLsb' 10 6 ≠ 0#6 → ∃ e, decode w = .error e)) ∧
  ∀ (s : State) (ch : BitVec 8) (cont avg : Bit) (count : BitVec 8), s.clocksReady = true →
    (AdcCtrl.pwr s.regs.adcCtrl = 0#1 → ch.toNat ≤ 5 → count.toNat ∈ [0, 4, 8, 16, 32] → ¬ (avg = 1#1 ∧ count = 0#8) →
      ∃ c : BitVec 12,
        exec (.adcCfg ch cont avg count) s =
          .next { s with
            regs := { s.regs with adcCtrl := c, irqEn := 1#1, pinAnalog := s.regs.pinAnalog ||| (1#6 <<< ch.toNat) }
            rsp := some .ok } ∧
        AdcCtrl.pwr c = 1#1 ∧ AdcCtrl.lpwr c = 1#1 ∧ AdcCtrl.lsmp c = 1#1 ∧ AdcCtrl.m16 c = 1#1 ∧ AdcCtrl.ien c = 1#1 ∧
        AdcCtrl.cont c = cont ∧ AdcCtrl.avge c = avg ∧
        (avg = 0#1 → AdcCtrl.avgs c = 0b00#2) ∧
        (avg = 1#1 → count = 4#8 → AdcCtrl.avgs c = 0b00#2) ∧
        (avg = 1#1 → count = 8#8 → AdcCtrl.avgs c = 0b01#2) ∧
        (avg = 1#1 → count = 16#8 → AdcCtrl.avgs c = 0b10#2) ∧
        (avg = 1#1 → count = 32#8 → AdcCtrl.avgs c = 0b11#2) ∧
        (AdcCtrl.ch c).toNat = ch.toNat) ∧
    (AdcCtrl.pwr s.regs.adcCtrl = 1#1 →
      exec (.adcCfg ch cont avg count) s = .next { s with rsp := some .rejSeq }) ∧
    (AdcCtrl.pwr s.regs.adcCtrl = 0#1 → 5 < ch.toNat →
      exec (.adcCfg ch cont avg count) s = .next { s with rsp := some .rejChannel }) ∧
    (AdcCtrl.pwr s.regs.adcCtrl = 0#1 → ch.toNat ≤ 5 → count.toNat ∉ [0, 4, 8, 16, 32] →
      exec (.adcCfg ch cont avg count) s = .next { s with rsp := some .rejAvg }) ∧
    (AdcCtrl.pwr s.regs.adcCtrl = 0#1 → ch.toNat ≤ 5 → avg = 1#1 → count = 0#8 →
      exec (.adcCfg ch cont avg count) s = .next { s with rsp := some .rejAvg })

/-- R122, with the table of R30: `ADC_START`: its word and operand; on the configured channel it writes that channel's select
code, triggers a conversion and answers `OK`; else the first check that fails gives the code and nothing else changes. -/
def Obligations.AdcStartTriggersOrRejects : Prop :=
  (∀ w : Word, w.extractLsb' 28 4 = 0x2#4 → w.extractLsb' 8 20 = 0#20 → decode w = .ok (.adcStart (w.extractLsb' 0 8))) ∧
  ∀ (s : State) (ch : BitVec 8), s.clocksReady = true →
    (AdcCtrl.pwr s.regs.adcCtrl = 1#1 → ch.toNat ≤ 5 → ch.toNat = (AdcCtrl.ch s.regs.adcCtrl).toNat →
      exec (.adcStart ch) s =
        .next { s with
          regs := { s.regs with
            adcSel :=
              if ch = 0#8 then 0x8#4 else if ch = 1#8 then 0x9#4 else if ch = 2#8 then 0xC#4
              else if ch = 3#8 then 0xD#4 else if ch = 4#8 then 0xB#4 else 0xF#4
            conv := 1#1
            started := 1#1 }
          rsp := some .ok }) ∧
    (AdcCtrl.pwr s.regs.adcCtrl = 0#1 → exec (.adcStart ch) s = .next { s with rsp := some .rejSeq }) ∧
    (AdcCtrl.pwr s.regs.adcCtrl = 1#1 → 5 < ch.toNat →
      exec (.adcStart ch) s = .next { s with rsp := some .rejChannel }) ∧
    (AdcCtrl.pwr s.regs.adcCtrl = 1#1 → ch.toNat ≤ 5 → ch.toNat ≠ (AdcCtrl.ch s.regs.adcCtrl).toNat →
      exec (.adcStart ch) s = .next { s with rsp := some .rejSeq })

/-- R123: `PWM_CFG`: its word and operand; on a timer that does not run, a positive period writes every field of `PWM_CTRL`, the
modulo, the period, the pin bit and the zeros of compare and counter, and answers `OK`; else the first check that fails
gives the code and nothing else changes. -/
def Obligations.PwmCfgConfiguresOrRejects : Prop :=
  (∀ w : Word, w.extractLsb' 28 4 = 0x3#4 → w.extractLsb' 16 12 = 0#12 → decode w = .ok (.pwmCfg (w.extractLsb' 0 16))) ∧
  ∀ (s : State) (period : Half), s.clocksReady = true →
    (PwmCtrl.run s.regs.pwmCtrl = 0#1 → period ≠ 0#16 →
      ∃ (c : BitVec 9) (m : Half),
        exec (.pwmCfg period) s =
          .next { s with
            regs := { s.regs with pwmCtrl := c, mod := m, period := period, pinPwm := 1#1, cmp := 0#16, cnt := 0#16 }
            rsp := some .ok } ∧
        m.toNat = period.toNat - 1 ∧
        PwmCtrl.pwr c = 1#1 ∧ PwmCtrl.clksel c = 1#1 ∧ PwmCtrl.upcnt c = 1#1 ∧ PwmCtrl.ps c = 0b000#3 ∧
        PwmCtrl.edge c = 1#1 ∧ PwmCtrl.htrue c = 1#1 ∧ PwmCtrl.run c = 1#1 ∧ c = 0x1C7#9) ∧
    (PwmCtrl.run s.regs.pwmCtrl = 1#1 → exec (.pwmCfg period) s = .next { s with rsp := some .rejSeq }) ∧
    (PwmCtrl.run s.regs.pwmCtrl = 0#1 → period = 0#16 → exec (.pwmCfg period) s = .next { s with rsp := some .rejPeriod })

/-- R124: `PWM_SETDUTY`: its word and operand; every duty up to 65535 is passed through to `CMP`, in every state, and a greater one
is rejected and changes nothing. -/
def Obligations.SetDutyWritesOrRejects : Prop :=
  (∀ w : Word, w.extractLsb' 28 4 = 0x4#4 → decode w = .ok (.pwmSetDuty (w.extractLsb' 0 28))) ∧
  ∀ (s : State) (duty : BitVec 28), s.clocksReady = true →
    (duty.toNat ≤ 65535 →
      exec (.pwmSetDuty duty) s =
        .next { s with regs := { s.regs with cmp := BitVec.ofNat 16 duty.toNat }, rsp := some .ok }) ∧
    (65535 < duty.toNat → exec (.pwmSetDuty duty) s = .next { s with rsp := some .errDutyRange })

/-- R6, R220: in every state every command completes, and answers one of the codes R220 gives it. -/
def Obligations.EveryCommandIsAnswered : Prop :=
  ∀ (i : Instr) (s : State), s.clocksReady = true →
    ∃ (t : State) (c : Response), exec i s = .next t ∧ t.rsp = some c ∧
      c ∈ (match i.mnemonic with
        | .nop => [.ok]
        | .adcCfg => [.ok, .rejChannel, .rejAvg, .rejSeq]
        | .adcStart => [.ok, .rejChannel, .rejSeq]
        | .pwmCfg => [.ok, .rejPeriod, .rejSeq]
        | .pwmSetDuty => [.ok, .errDutyRange] : List Response)

/-- R220: the codes of the seven responses. -/
def Obligations.ResponseCodes : Prop :=
  ∀ c : Response, (Response.code c).toNat =
    (match c with
      | .ok => 0x0
      | .rejChannel => 0x1
      | .rejAvg => 0x2
      | .errDutyRange => 0x3
      | .rejPeriod => 0x4
      | .rejSeq => 0x5
      | .errIllegal => 0x7)

/-- R221: a host step that answers another code than `OK`, an illegal word among them, changes no register; a command that is
rejected leaves the whole state as it was but for the response; and no step depends on the response of an earlier one. -/
def Obligations.RejectedStepChangesNothing : Prop :=
  (∀ (s t : State) (cmd : Word), s.nextEvent = .host cmd → step s = .next t → t.rsp ≠ some .ok → t.regs = s.regs) ∧
  (∀ (i : Instr) (s t : State), exec i s = .next t → t.rsp ≠ some .ok → t = { s with rsp := t.rsp }) ∧
  ∀ (s : State) (c : Option Response), step { s with rsp := c } = step s

/-- R120 to R124, the frame of each command: the registers it may write, and every other one unchanged; of `PIN_ANALOG` only
the channel's bit (R31, R74). -/
def Obligations.HostCommandFrames : Prop :=
  ∀ (s t : State),
    (exec .nop s = .next t → ∀ n : RegName, n.val t.regs = n.val s.regs) ∧
    (∀ (ch : BitVec 8) (cont avg : Bit) (count : BitVec 8), exec (.adcCfg ch cont avg count) s = .next t →
      (∀ n ∉ [RegName.adcCtrl, .irqEn, .pinAnalog], n.val t.regs = n.val s.regs) ∧
      ∀ k, k ≠ ch.toNat → t.regs.pinAnalog.getLsbD k = s.regs.pinAnalog.getLsbD k) ∧
    (∀ ch : BitVec 8, exec (.adcStart ch) s = .next t →
      ∀ n ∉ [RegName.adcSel, .conv, .started], n.val t.regs = n.val s.regs) ∧
    (∀ period : Half, exec (.pwmCfg period) s = .next t →
      ∀ n ∉ [RegName.pwmCtrl, .mod, .period, .pinPwm, .cmp, .cnt], n.val t.regs = n.val s.regs) ∧
    (∀ duty : BitVec 28, exec (.pwmSetDuty duty) s = .next t →
      ∀ n ∉ [RegName.cmp], n.val t.regs = n.val s.regs) ∧
    (∀ i : Instr, exec i s = .next t →
      t.clocksReady = s.clocksReady ∧ t.sched = s.sched ∧ t.turn = s.turn)

/-- R127: what a state must be for a command to be accepted: `ADC_START` only after a successful `ADC_CFG`; `ADC_CFG` and
`PWM_CFG` only before their own first success, and each leaves the state in which it is refused. -/
def Obligations.AcceptedInSequenceOnly : Prop :=
  ∀ (s t : State), t.rsp = some .ok →
    (∀ (ch : BitVec 8) (cont avg : Bit) (count : BitVec 8), exec (.adcCfg ch cont avg count) s = .next t →
      AdcCtrl.pwr s.regs.adcCtrl = 0#1 ∧ AdcCtrl.pwr t.regs.adcCtrl = 1#1) ∧
    (∀ ch : BitVec 8, exec (.adcStart ch) s = .next t → AdcCtrl.pwr s.regs.adcCtrl = 1#1) ∧
    (∀ period : Half, exec (.pwmCfg period) s = .next t →
      PwmCtrl.run s.regs.pwmCtrl = 0#1 ∧ PwmCtrl.run t.regs.pwmCtrl = 1#1)

/-! ### Steps -/

/-- R6, R101, R106: where the host's word is the next step and it decodes, the step is the decoded command's, on the state in
which the choice of that step is used up. -/
def Obligations.StepRunsDecodedCommand : Prop :=
  ∀ (s : State) (cmd : Word) (i : Instr), s.nextEvent = .host cmd → decode cmd = .ok i →
    step s = exec i { s with sched := s.sched.tail, turn := s.turn + 1, rsp := none }

/-- R5, R6: where another agent's step is the next one, it is taken whole if it is enabled and changes no register if it is
not; the passing of the turn is the model's choice (log entry 2). -/
def Obligations.StepRunsAgentStep : Prop :=
  ∀ (s : State) (a : InternalStep), s.clocksReady = true → s.nextEvent = .internal a →
    (∀ r, internalStep a s.regs = some r → step s = .next { s.take with regs := r }) ∧
    (internalStep a s.regs = none → step s = .next s.take)

/-- R6, R51, U11: the first step of `sched` goes next, and where it is empty a free one; the model's choice (log entries 2
and 3). -/
def Obligations.NextStepIsScheduledOrFree : Prop :=
  ∀ (s : State) (e : Event) (es : List Event),
    (s.sched = e :: es → s.nextEvent = e ∧ s.take.sched = es) ∧
    (s.sched = [] → s.nextEvent = Config.freeEvent s.turn ∧ s.take.sched = [])

/-- R101, R220, R222, R238: under the launch premise no step of any agent can fail, and every host step answers a response. That
every other step leaves no response on the port is the model's choice (log entry 1), as are the next state of a step that is
not enabled (log entry 2) and that the premise still holds in the next state (log entry 4). -/
def Obligations.EveryStepCompletes : Prop :=
  ∀ s : State, s.clocksReady = true →
    ∃ t, step s = .next t ∧ t.clocksReady = true ∧ (t.rsp ≠ none ↔ ∃ cmd, s.nextEvent = .host cmd)

/-- R11, U12: without the launch premise no step has a meaning; the refusal is the model's choice (log entry 4). -/
def Obligations.WithoutClocksEveryStepIsRefused : Prop :=
  ∀ s : State, s.clocksReady = false → step s = .refused .clocksNotReady

/-- R250, R252: `RESET`, in every state, puts every register at 0. -/
def Obligations.ResetClearsEveryRegister : Prop :=
  ∀ s : State, s.clocksReady = true → s.nextEvent = .internal .reset →
    ∃ t, step s = .next t ∧ ∀ n : RegName, n.val t.regs = 0

/-- R251: after reset the enabled steps are the host's and `RESET` only; no interrupt is pending or enabled, the handoff is idle,
the loop is `Initializing` and the output inactive. -/
def Obligations.StateAfterReset : Prop :=
  (∀ n : RegName, n.val State.reset.regs = 0) ∧
  (∀ a : InternalStep, enabled a State.reset.regs = true ↔ a = .reset) ∧
  irq State.reset.regs = false ∧ running State.reset.regs = false ∧ pwmOut State.reset.regs = false ∧
  cdcIdle State.reset.regs = true

/-! ### The sample path -/

/-- R150: `CONV_COMPLETE(v)` is enabled when `CONV = 1`, overwrites `RESULT` whatever `COCO` was, sets `COCO`, and leaves `CONV`
at `ADC_CTRL.CONT`. -/
def Obligations.CompletionDeliversResult : Prop :=
  ∀ (r : Regs) (v : Half),
    (r.conv = 1#1 → internalStep (.convComplete v) r =
      some { r with result := v, coco := 1#1, conv := AdcCtrl.cont r.adcCtrl }) ∧
    (r.conv = 0#1 → internalStep (.convComplete v) r = none)

/-- R152, R154, R228: `IRQ_SERVICE` is enabled when `irq = 1`; it clears `COCO` and launches `RESULT` where the handoff is idle,
superseding a waiting value, or else parks it and leaves `HOLD` and `REQ` alone. -/
def Obligations.HandlerPublishesResult : Prop :=
  ∀ r : Regs,
    ((r.coco = 1#1 ∧ AdcCtrl.ien r.adcCtrl = 1#1 ∧ r.irqEn = 1#1) →
      (r.req = r.ackS → internalStep .irqService r =
        some { r with coco := 0#1, hold := r.result, pendV := 0#1, req := ~~~r.req }) ∧
      (r.req ≠ r.ackS → internalStep .irqService r =
        some { r with coco := 0#1, pend := r.result, pendV := 1#1 })) ∧
    (¬ (r.coco = 1#1 ∧ AdcCtrl.ien r.adcCtrl = 1#1 ∧ r.irqEn = 1#1) → internalStep .irqService r = none)

/-- R155 to R158: the four handoff steps, when each is enabled and what each writes; after the acknowledge on the handshake cycle
the handoff is idle; and a service that finds it idle leaves no relaunch to do. -/
def Obligations.HandoffStepsMoveTheValue : Prop :=
  ∀ r : Regs,
    (r.req = r.ackS ∧ r.pendV = 1#1 → internalStep .cdcRelaunch r =
      some { r with hold := r.pend, pendV := 0#1, req := ~~~r.req }) ∧
    (¬ (r.req = r.ackS ∧ r.pendV = 1#1) → internalStep .cdcRelaunch r = none) ∧
    (r.reqM ≠ r.req → internalStep .cdcSyncReq r = some { r with reqM := r.req }) ∧
    (r.reqM = r.req → internalStep .cdcSyncReq r = none) ∧
    (r.reqM ≠ r.ack → internalStep .cdcCapture r = some { r with sample := r.hold, ack := r.reqM }) ∧
    (r.reqM = r.ack → internalStep .cdcCapture r = none) ∧
    (r.ackS ≠ r.ack → internalStep .cdcSyncAck r = some { r with ackS := r.ack }) ∧
    (r.ackS = r.ack → internalStep .cdcSyncAck r = none) ∧
    (HandoffInv r → r.ackS ≠ r.ack → ∃ t, internalStep .cdcSyncAck r = some t ∧ cdcIdle t = true) ∧
    (r.req = r.ackS → irq r = true → ∃ t, internalStep .irqService r = some t ∧ enabled .cdcRelaunch t = false)

/-- R228, R229: the handler touches no register but `COCO`, `HOLD`, `PEND`, `PEND_V` and `REQ`; none of the main domain and
none of the timer's. -/
def Obligations.HandlerTouchesOnlyTheSendingSide : Prop :=
  ∀ r t : Regs, internalStep .irqService r = some t →
    (∀ n ∉ [RegName.coco, .hold, .pend, .pendV, .req], n.val t = n.val r) ∧
    ∀ n : RegName, n.domain ≠ .samplerS → n.val t = n.val r

/-- R160, R161: the invariant of the handoff, kept by every step from every state in which it holds. -/
def Obligations.StepKeepsHandoffInv : Prop :=
  ∀ s t : State, HandoffInv s.regs → step s = .next t → HandoffInv t.regs

/-- R160: at each point of the handshake cycle exactly one of launch, `CDC_SYNC_REQ`, `CDC_CAPTURE` and `CDC_SYNC_ACK` is
enabled, a launch only if there is something to send. -/
def Obligations.OneHandoffStepIsEnabled : Prop :=
  ∀ r : Regs, HandoffInv r →
    ([cdcIdle r, enabled .cdcSyncReq r, enabled .cdcCapture r, enabled .cdcSyncAck r].count true = 1) ∧
    (enabled .cdcRelaunch r = true ↔ cdcIdle r = true ∧ r.pendV = 1#1)

/-- R161: `REQ = ACK_S` holds only where all four handshake bits agree and no capture is enabled, and while `REQ` and `ACK_S`
differ no step but `RESET` changes `HOLD`. -/
def Obligations.HoldIsStableInFlight : Prop :=
  ∀ s t : State, HandoffInv s.regs → step s = .next t →
    (s.regs.req = s.regs.ackS →
      s.regs.reqM = s.regs.req ∧ s.regs.ack = s.regs.req ∧ enabled .cdcCapture s.regs = false) ∧
    (s.regs.req ≠ s.regs.ackS → s.nextEvent ≠ .internal .reset → t.regs.hold = s.regs.hold)

/-- R163: in any number of steps from any state on the handshake cycle, the values captured into `SAMPLE` are, in order, some
of those in the handoff at the start and those published since: nothing is made up, torn or reordered. -/
def Obligations.CapturedIsSublistOfPublished : Prop :=
  ∀ (n : Nat) (s : State), s.clocksReady = true → HandoffInv s.regs →
    (seenIn capturesNext n s).Sublist (inFlight s.regs ++ seenIn publishesNext n s)

/-- R162, R261: in any number of steps from any state, the values published are, in order, some of the result waiting at the
start and the results of the conversions completed since. -/
def Obligations.PublishedIsSublistOfCompleted : Prop :=
  ∀ (n : Nat) (s : State), s.clocksReady = true →
    (seenIn publishesNext n s).Sublist (unserved s.regs ++ seenIn completesNext n s)

/-- R162: at every instant `SAMPLE` is the value it had, or `SAMPLE_RESET`, or a value that was in the handoff or has been
published since. -/
def Obligations.SampleIsResetOrPublished : Prop :=
  ∀ (n : Nat) (s t : State), s.clocksReady = true → HandoffInv s.regs → runSteps n s = .next t →
    t.regs.sample ∈ s.regs.sample :: Config.sampleReset :: (inFlight s.regs ++ seenIn publishesNext n s)

/-- R163: "The last value published is never lost", over one schedule (over every fair run: `LastPublishedValueArrives`): from every state on the handshake cycle, a schedule in which the handoff's
steps take their turns leaves the handoff idle with nothing waiting and `SAMPLE` equal to the last value published. -/
def Obligations.HandoffDeliversTheLastValue : Prop :=
  ∀ (s : State) (rest : List Event), s.clocksReady = true → HandoffInv s.regs →
    s.sched = [.internal .cdcSyncReq, .internal .cdcCapture, .internal .cdcSyncAck, .internal .cdcRelaunch,
      .internal .cdcSyncReq, .internal .cdcCapture, .internal .cdcSyncAck] ++ rest →
    ∃ t, runSteps 7 s = .next t ∧ t.sched = rest ∧ cdcIdle t.regs = true ∧ t.regs.pendV = 0#1 ∧
      t.regs.sample = newestPublished s.regs

/-- R162: where the handler and the handoff follow a completion at once, PWMCTL behaves as the source's software cell: the
completed result is in `SAMPLE` and the handoff is idle again. -/
def Obligations.PromptHandoffIsTheSoftwareCell : Prop :=
  ∀ (s : State) (v : Half) (rest : List Event), s.clocksReady = true → HandoffInv s.regs → cdcIdle s.regs = true →
    s.regs.conv = 1#1 → AdcCtrl.ien s.regs.adcCtrl = 1#1 → s.regs.irqEn = 1#1 →
    s.sched = [.internal (.convComplete v), .internal .irqService, .internal .cdcSyncReq, .internal .cdcCapture,
      .internal .cdcSyncAck] ++ rest →
    ∃ t, runSteps 5 s = .next t ∧ t.sched = rest ∧ t.regs.sample = v ∧ cdcIdle t.regs = true ∧ t.regs.pendV = 0#1 ∧
      t.regs.coco = 0#1

/-! ### The scaler and the loop -/

/-- R180: `SCALE` is the exact floor of the exact product over 65535, for all operands; at the period 0 it is 0 (R181). -/
def Obligations.ScaleIsExactFloor : Prop :=
  ∀ p x : Half, (scale p x).toNat = p.toNat * x.toNat / 65535

/-- R182: the bound, the boundary values, monotonicity in each operand, and the exact product. -/
def Obligations.ScaleLaws : Prop :=
  (∀ p x : Half, scale p x ≤ p) ∧
  (∀ p : Half, scale p 0#16 = 0#16 ∧ scale p 0xFFFF#16 = p) ∧
  (∀ p x y : Half, x ≤ y → scale p x ≤ scale p y) ∧
  (∀ p q x : Half, p ≤ q → scale p x ≤ scale q x) ∧
  (∀ p x : Half, (mulStage p x).toNat = p.toNat * x.toNat ∧ mulStage p x ≤ 0xFFFE0001#32)

/-- R184 to R187, R189: each loop step, when it is enabled and what it writes. -/
def Obligations.LoopStepsRunInOrder : Prop :=
  ∀ r : Regs,
    (running r = true → r.lphase = 0#2 → internalStep .loopSnap r = some { r with snap := r.sample, lphase := 1#2 }) ∧
    (running r = true → r.lphase = 1#2 → ∃ p : BitVec 32, internalStep .loopMul r = some { r with prod := p, lphase := 2#2 } ∧
      p.toNat = r.period.toNat * r.snap.toNat) ∧
    (running r = true → r.lphase = 2#2 → internalStep .loopDiv r =
      some { r with dutyq := BitVec.ofNat 16 (r.prod.toNat / 65535), lphase := 3#2 }) ∧
    (running r = true → r.lphase = 3#2 → internalStep .loopApply r = some { r with cmp := r.dutyq, lphase := 0#2 }) ∧
    (enabled .loopSnap r = true ↔ running r = true ∧ r.lphase = 0#2) ∧
    (enabled .loopMul r = true ↔ running r = true ∧ r.lphase = 1#2) ∧
    (enabled .loopDiv r = true ↔ running r = true ∧ r.lphase = 2#2) ∧
    (enabled .loopApply r = true ↔ running r = true ∧ r.lphase = 3#2)

/-- R46, R49, R184, R188: the invariant of the loop, kept by every step: whatever other agents do between its steps, the product
and the duty belong to the snapshot taken in the same iteration. -/
def Obligations.StepKeepsLoopInv : Prop :=
  ∀ s t : State, TimerInv s.regs → LoopInv s.regs → step s = .next t → LoopInv t.regs

/-- R189, R182 (a): the loop applies the scale of its snapshot, and never a duty above the period. -/
def Obligations.LoopAppliesScaleOfItsSnapshot : Prop :=
  ∀ r t : Regs, LoopInv r → internalStep .loopApply r = some t →
    t.cmp = scale r.period r.snap ∧ t.cmp ≤ t.period

/-- R190: one iteration, taken whole while the loop runs, leaves `CMP = SCALE(PERIOD, s)` for the sample `s` it found. -/
def Obligations.IterationAppliesScale : Prop :=
  ∀ (s : State) (rest : List Event), s.clocksReady = true → running s.regs = true → s.regs.lphase = 0#2 →
    s.sched = [.internal .loopSnap, .internal .loopMul, .internal .loopDiv, .internal .loopApply] ++ rest →
    ∃ t, runSteps 4 s = .next t ∧ t.sched = rest ∧ t.regs.cmp = scale s.regs.period s.regs.sample ∧
      t.regs.lphase = 0#2 ∧ running t.regs = true

/-! ### The timer and the output -/

/-- R200, R201: `PWM_TICK` is enabled while the timer runs; it wraps at `MOD` and else counts up by one. -/
def Obligations.TickCountsOrWraps : Prop :=
  ∀ r : Regs,
    (PwmCtrl.run r.pwmCtrl = 1#1 → r.cnt = r.mod → internalStep .pwmTick r = some { r with cnt := 0#16 }) ∧
    (PwmCtrl.run r.pwmCtrl = 1#1 → r.cnt ≠ r.mod → internalStep .pwmTick r = some { r with cnt := r.cnt + 1#16 }) ∧
    (PwmCtrl.run r.pwmCtrl = 0#1 → internalStep .pwmTick r = none)

/-- R33 to R36, R38: the invariant of the timer, kept by every step. -/
def Obligations.StepKeepsTimerInv : Prop :=
  ∀ s t : State, TimerInv s.regs → step s = .next t → TimerInv t.regs

/-- R200: "the hardware counts modulo `period`": after any number of ticks the counter has advanced by that number modulo the
period, and no other register has changed. -/
def Obligations.CounterCountsModuloPeriod : Prop :=
  ∀ (n : Nat) (s : State) (rest : List Event), s.clocksReady = true → TimerInv s.regs →
    PwmCtrl.run s.regs.pwmCtrl = 1#1 → s.sched = List.replicate n (.internal .pwmTick) ++ rest →
    ∃ (t : State) (c : Half), runSteps n s = .next t ∧ t.sched = rest ∧ t.regs = { s.regs with cnt := c } ∧
      c.toNat = (s.regs.cnt.toNat + n) % s.regs.period.toNat

/-- R203: on a running timer the output is active at the counts below `min(CMP, PERIOD)` and at no other; and over the output
cycle that begins at `CNT = 0` it is active exactly at the first `min(CMP, PERIOD)` counts. -/
def Obligations.OutputCycleHasDutyActiveCounts : Prop :=
  (∀ r : Regs, TimerInv r → PwmCtrl.run r.pwmCtrl = 1#1 →
    r.cnt.toNat < r.period.toNat ∧ pwmOut r = decide (r.cnt.toNat < min r.cmp.toNat r.period.toNat)) ∧
  ∀ (s : State) (rest : List Event), s.clocksReady = true → TimerInv s.regs →
    PwmCtrl.run s.regs.pwmCtrl = 1#1 → s.regs.cnt = 0#16 →
    s.sched = List.replicate s.regs.period.toNat (.internal .pwmTick) ++ rest →
    (∀ k < s.regs.period.toNat, pwmOutAfter k s = decide (k < min s.regs.cmp.toNat s.regs.period.toNat)) ∧
    (List.range s.regs.period.toNat).countP (fun k => pwmOutAfter k s) = min s.regs.cmp.toNat s.regs.period.toNat

/-- R202, R204 to R206: the output is the level comparison; it is continuously active where `CMP >= PERIOD` on a running timer,
and inactive where `CMP = 0`, where the timer does not run, and where the pin is not switched. -/
def Obligations.OutputLevel : Prop :=
  ∀ r : Regs,
    (pwmOut r = true ↔ PwmCtrl.run r.pwmCtrl = 1#1 ∧ r.pinPwm = 1#1 ∧ r.cnt.toNat < r.cmp.toNat) ∧
    (TimerInv r → PwmCtrl.run r.pwmCtrl = 1#1 → r.period ≤ r.cmp → pwmOut r = true) ∧
    (r.cmp = 0#16 → pwmOut r = false) ∧
    (PwmCtrl.run r.pwmCtrl = 0#1 → pwmOut r = false) ∧
    (r.pinPwm = 0#1 → pwmOut r = false)

/-- R37, R207: a write of the compare register takes effect on the output at once. -/
def Obligations.DutyWriteActsAtOnce : Prop :=
  ∀ (s : State) (duty : BitVec 28), s.clocksReady = true → duty.toNat ≤ 65535 →
    PwmCtrl.run s.regs.pwmCtrl = 1#1 → s.regs.pinPwm = 1#1 →
    ∃ t, exec (.pwmSetDuty duty) s = .next t ∧ pwmOut t.regs = decide (s.regs.cnt.toNat < duty.toNat)

/-! ### The whole block -/

/-- R250, R251: reset meets the invariants of all four parts. -/
def Obligations.InvariantsHoldAtReset : Prop :=
  SamplerInv State.reset.regs ∧ TimerInv State.reset.regs ∧ HandoffInv State.reset.regs ∧ LoopInv State.reset.regs

/-- R23, R24, R26, R27, R30, R31: the invariant of the sampler, kept by every step. -/
def Obligations.StepKeepsSamplerInv : Prop :=
  ∀ s t : State, SamplerInv s.regs → step s = .next t → SamplerInv t.regs

/-- R55: what `irq` is, and that "whenever `COCO = 1`, `irq = 1`": a completion is never masked. -/
def Obligations.PendingCompletionRequestsInterrupt : Prop :=
  ∀ r : Regs,
    (irq r = true ↔ r.coco = 1#1 ∧ AdcCtrl.ien r.adcCtrl = 1#1 ∧ r.irqEn = 1#1) ∧
    (SamplerInv r → r.coco = 1#1 → irq r = true ∧ enabled .irqService r = true)

/-- R24, R27, R28, R29, R34: no step but `RESET` undoes a configuration, changes a configured channel or period, disables the
interrupt, or forgets that the sampler was started. -/
def Obligations.ConfigurationLastsUntilReset : Prop :=
  ∀ s t : State, step s = .next t → s.nextEvent ≠ .internal .reset →
    (AdcCtrl.pwr s.regs.adcCtrl = 1#1 → t.regs.adcCtrl = s.regs.adcCtrl) ∧
    (s.regs.irqEn = 1#1 → t.regs.irqEn = 1#1) ∧
    (s.regs.started = 1#1 → t.regs.started = 1#1) ∧
    (PwmCtrl.run s.regs.pwmCtrl = 1#1 →
      t.regs.pwmCtrl = s.regs.pwmCtrl ∧ t.regs.period = s.regs.period ∧ t.regs.mod = s.regs.mod)

/-- R56: what `running` is, and that it rises once: no step but `RESET` takes it back, and it rises only in an accepted
`ADC_CFG`, `PWM_CFG` or `ADC_START`. -/
def Obligations.RunningRisesOnceAndStays : Prop :=
  (∀ r : Regs, running r = true ↔
    AdcCtrl.pwr r.adcCtrl = 1#1 ∧ PwmCtrl.run r.pwmCtrl = 1#1 ∧ r.started = 1#1) ∧
  ∀ s t : State, step s = .next t →
    (running s.regs = true → s.nextEvent ≠ .internal .reset → running t.regs = true) ∧
    (running s.regs = true → s.nextEvent = .internal .reset → running t.regs = false) ∧
    (running s.regs = false → running t.regs = true →
      t.rsp = some .ok ∧ s.nextEvent.stepKind ∈ [StepKind.adcCfg, .pwmCfg, .adcStart])

/-- R20, R250: in every step a register changes only if the table of R20 lists the step among its writers, or the step is
`RESET`. -/
def Obligations.RegistersChangeOnlyByTheirWriters : Prop :=
  ∀ (s t : State) (n : RegName), step s = .next t → n.val t.regs ≠ n.val s.regs →
    s.nextEvent.stepKind ∈ n.writers ∨ s.nextEvent.stepKind = .reset

/-- R53, R79 (b): two states that agree on the main domain and take the same step agree on it afterwards, and answer the host
alike, whatever the other domains hold, unless the step is the capture or the request synchroniser: nothing crosses from
the sampler domain by any other step. -/
def Obligations.MainDomainSeesOnlyTheHandoff : Prop :=
  ∀ s t s' t' : State, s.nextEvent = t.nextEvent →
    s.nextEvent ≠ .internal .cdcCapture → s.nextEvent ≠ .internal .cdcSyncReq →
    (∀ n : RegName, n.domain = .mainM → n.val s.regs = n.val t.regs) →
    step s = .next s' → step t = .next t' →
    (∀ n : RegName, n.domain = .mainM → n.val s'.regs = n.val t'.regs) ∧ s'.rsp = t'.rsp

/-! ### Runs and fairness -/

/-- R6: any step may go next; the one the machine takes itself is one of these; and from every state in which the launch premise
holds every sequence of choices has a run. What a run is, is the model's choice (log entries 2 and 10). -/
def Obligations.EveryScheduleIsARun : Prop :=
  (∀ (s : State) (e : Event), (s.choose e).nextEvent = e ∧ (s.choose e).regs = s.regs ∧ (s.choose e).take = s.take) ∧
  (∀ s : State, step (s.choose s.nextEvent) = step s) ∧
  ∀ (s : State) (ε : Nat → Event), s.clocksReady = true → ∃ σ : Nat → State, σ 0 = s ∧ IsRun σ ε

/-- R6, R272: from every state in which the launch premise holds there is a weakly fair run; and where a step of a fair agent is
enabled there is also a run that is not fair, in which no register ever changes: "Without it the model admits schedules in
which, for example, `TMR` never ticks or the handoff never completes". -/
def Obligations.FairAndUnfairRunsExist : Prop :=
  ∀ s : State, s.clocksReady = true →
    (∃ (σ : Nat → State) (ε : Nat → Event), σ 0 = s ∧ IsRun σ ε ∧ WeaklyFair σ ε) ∧
    ((∃ a : InternalStep, a.agent.isFair = true ∧ enabled a s.regs = true) →
      ∃ (σ : Nat → State) (ε : Nat → Event),
        σ 0 = s ∧ IsRun σ ε ∧ ¬ WeaklyFair σ ε ∧ ∀ n, (σ n).regs = s.regs)

/-- R6, R184, R191, R201, R226: in a fair run without `RESET` a requested interrupt is served, a loop that runs applies a duty
again and again, and a timer that runs ticks again and again. -/
def Obligations.FairAgentsKeepWorking : Prop :=
  ∀ (σ : Nat → State) (ε : Nat → Event) (n : Nat), IsRun σ ε → WeaklyFair σ ε →
    (∀ m, n ≤ m → ε m ≠ .internal .reset) →
    (irq (σ n).regs = true → ∃ m, n ≤ m ∧ ε m = .internal .irqService ∧ irq (σ m).regs = true) ∧
    (running (σ n).regs = true →
      ∀ k, n ≤ k → ∃ m, k ≤ m ∧ ε m = .internal .loopApply ∧ enabled .loopApply (σ m).regs = true) ∧
    (PwmCtrl.run (σ n).regs.pwmCtrl = 1#1 →
      ∀ k, n ≤ k → ∃ m, k ≤ m ∧ ε m = .internal .pwmTick ∧ enabled .pwmTick (σ m).regs = true)

/-- R163: "if publishes cease, weak fairness of the `CDC` steps ... takes the handoff to idle with `SAMPLE` equal to the last value
published", and it stays so. -/
def Obligations.LastPublishedValueArrives : Prop :=
  ∀ (σ : Nat → State) (ε : Nat → Event) (n : Nat), IsRun σ ε → WeaklyFair σ ε → HandoffInv (σ n).regs →
    (∀ m, n ≤ m → ε m ≠ .internal .reset ∧ publishesNext ((σ m).choose (ε m)) = []) →
    ∃ k, n ≤ k ∧ ∀ m, k ≤ m →
      (σ m).regs.sample = newestPublished (σ n).regs ∧ cdcIdle (σ m).regs = true ∧ (σ m).regs.pendV = 0#1

/-- R272: "Claims of the form 'eventually `CMP` reflects the last sample' need fairness": in a fair run of a running loop, once
publishes, host writes of the duty and `RESET` cease, `CMP` becomes the scale of the last value published, and stays so. -/
def Obligations.EventuallyCmpReflectsTheLastSample : Prop :=
  ∀ (σ : Nat → State) (ε : Nat → Event) (n : Nat), IsRun σ ε → WeaklyFair σ ε → HandoffInv (σ n).regs →
    running (σ n).regs = true →
    (∀ m, n ≤ m → ε m ≠ .internal .reset ∧ (ε m).stepKind ≠ .pwmSetDuty ∧
      publishesNext ((σ m).choose (ε m)) = []) →
    ∃ k, n ≤ k ∧ ∀ m, k ≤ m → (σ m).regs.cmp = scale (σ n).regs.period (newestPublished (σ n).regs)

/-- R272, R189: "`CMP <= PERIOD` while only the loop writes it", in any run, fair or not: kept by every step but a host write of
the duty. -/
def Obligations.StepKeepsCmpWithinPeriod : Prop :=
  ∀ s t : State, LoopInv s.regs → s.regs.cmp ≤ s.regs.period → step s = .next t →
    s.nextEvent.stepKind ≠ .pwmSetDuty → t.regs.cmp ≤ t.regs.period
end

