-- ==== Sys2Proof/Laws/Encode.lean ====
section
/-! SUPPORT. The bits of an encoded command, one lemma per format of spec/30_encoding.md R91. -/

namespace Sys2Proof

/-- The opcode of format A over its reserved fields and operands. -/
theorem getLsbD_encode_adcCfg (ch : BitVec 8) (cont avg : Bit) (count : BitVec 8) (k : Nat) :
    (encode (.adcCfg ch cont avg count)).getLsbD k =
      if k < 8 then ch.getLsbD k else if k < 9 then cont.getLsbD (k - 8) else if k < 10 then avg.getLsbD (k - 9)
      else if k < 16 then false else if k < 24 then count.getLsbD (k - 16) else (0x10#8).getLsbD (k - 24) := by
  have h : encode (.adcCfg ch cont avg count) =
      BitVec.append (BitVec.append (BitVec.append (BitVec.append (BitVec.append 0x10#8 count) 0#6) avg) cont) ch := rfl
  rw [h]
  simp only [BitVec.append_eq, BitVec.getLsbD_append, BitVec.getLsbD_zero]
  split_ifs <;> first | rfl | omega

theorem getLsbD_encode_adcStart (ch : BitVec 8) (k : Nat) :
    (encode (.adcStart ch)).getLsbD k = if k < 8 then ch.getLsbD k else (0x200000#24).getLsbD (k - 8) := by
  have h : encode (.adcStart ch) = BitVec.append 0x200000#24 ch := rfl
  rw [h, BitVec.append_eq, BitVec.getLsbD_append]

theorem getLsbD_encode_pwmCfg (period : Half) (k : Nat) :
    (encode (.pwmCfg period)).getLsbD k = if k < 16 then period.getLsbD k else (0x3000#16).getLsbD (k - 16) := by
  have h : encode (.pwmCfg period) = BitVec.append 0x3000#16 period := rfl
  rw [h, BitVec.append_eq, BitVec.getLsbD_append]

theorem getLsbD_encode_pwmSetDuty (duty : BitVec 28) (k : Nat) :
    (encode (.pwmSetDuty duty)).getLsbD k = if k < 28 then duty.getLsbD k else (0x4#4).getLsbD (k - 28) := by
  have h : encode (.pwmSetDuty duty) = BitVec.append 0x4#4 duty := rfl
  rw [h, BitVec.append_eq, BitVec.getLsbD_append]

end Sys2Proof
end

