-- ==== Sys2Proof/Laws/State.lean ====
section
/-! SUPPORT. One lemma per field of each named update, so that no later proof unfolds one. -/

namespace Sys2Proof.Machine

/-! `State.take`, `State.present` and `State.choose`. -/

@[simp] theorem take_regs (s : State) : s.take.regs = s.regs := rfl
@[simp] theorem take_rsp (s : State) : s.take.rsp = none := rfl
@[simp] theorem take_clocksReady (s : State) : s.take.clocksReady = s.clocksReady := rfl
@[simp] theorem take_sched (s : State) : s.take.sched = s.sched.tail := rfl
@[simp] theorem take_turn (s : State) : s.take.turn = s.turn + 1 := rfl

@[simp] theorem present_regs (w : Word) (s : State) : (s.present w).regs = s.regs := rfl
@[simp] theorem present_rsp (w : Word) (s : State) : (s.present w).rsp = s.rsp := rfl
@[simp] theorem present_clocksReady (w : Word) (s : State) : (s.present w).clocksReady = s.clocksReady := rfl
@[simp] theorem present_sched (w : Word) (s : State) : (s.present w).sched = .host w :: s.sched := rfl
@[simp] theorem present_turn (w : Word) (s : State) : (s.present w).turn = s.turn := rfl

@[simp] theorem choose_regs (e : Event) (s : State) : (s.choose e).regs = s.regs := rfl
@[simp] theorem choose_rsp (e : Event) (s : State) : (s.choose e).rsp = s.rsp := rfl
@[simp] theorem choose_clocksReady (e : Event) (s : State) : (s.choose e).clocksReady = s.clocksReady := rfl
@[simp] theorem choose_sched (e : Event) (s : State) : (s.choose e).sched = e :: s.sched.tail := rfl
@[simp] theorem choose_turn (e : Event) (s : State) : (s.choose e).turn = s.turn := rfl
@[simp] theorem choose_nextEvent (e : Event) (s : State) : (s.choose e).nextEvent = e := rfl
@[simp] theorem choose_take (e : Event) (s : State) : (s.choose e).take = s.take := rfl

/-! `launch` (R154, R155). -/

@[simp] theorem launch_adcCtrl (v : Half) (r : Regs) : (launch v r).adcCtrl = r.adcCtrl := rfl
@[simp] theorem launch_adcSel (v : Half) (r : Regs) : (launch v r).adcSel = r.adcSel := rfl
@[simp] theorem launch_started (v : Half) (r : Regs) : (launch v r).started = r.started := rfl
@[simp] theorem launch_irqEn (v : Half) (r : Regs) : (launch v r).irqEn = r.irqEn := rfl
@[simp] theorem launch_pinAnalog (v : Half) (r : Regs) : (launch v r).pinAnalog = r.pinAnalog := rfl
@[simp] theorem launch_pinPwm (v : Half) (r : Regs) : (launch v r).pinPwm = r.pinPwm := rfl
@[simp] theorem launch_pwmCtrl (v : Half) (r : Regs) : (launch v r).pwmCtrl = r.pwmCtrl := rfl
@[simp] theorem launch_period (v : Half) (r : Regs) : (launch v r).period = r.period := rfl
@[simp] theorem launch_mod (v : Half) (r : Regs) : (launch v r).mod = r.mod := rfl
@[simp] theorem launch_cmp (v : Half) (r : Regs) : (launch v r).cmp = r.cmp := rfl
@[simp] theorem launch_sample (v : Half) (r : Regs) : (launch v r).sample = r.sample := rfl
@[simp] theorem launch_reqM (v : Half) (r : Regs) : (launch v r).reqM = r.reqM := rfl
@[simp] theorem launch_ack (v : Half) (r : Regs) : (launch v r).ack = r.ack := rfl
@[simp] theorem launch_lphase (v : Half) (r : Regs) : (launch v r).lphase = r.lphase := rfl
@[simp] theorem launch_snap (v : Half) (r : Regs) : (launch v r).snap = r.snap := rfl
@[simp] theorem launch_prod (v : Half) (r : Regs) : (launch v r).prod = r.prod := rfl
@[simp] theorem launch_dutyq (v : Half) (r : Regs) : (launch v r).dutyq = r.dutyq := rfl
@[simp] theorem launch_cnt (v : Half) (r : Regs) : (launch v r).cnt = r.cnt := rfl
@[simp] theorem launch_conv (v : Half) (r : Regs) : (launch v r).conv = r.conv := rfl
@[simp] theorem launch_result (v : Half) (r : Regs) : (launch v r).result = r.result := rfl
@[simp] theorem launch_coco (v : Half) (r : Regs) : (launch v r).coco = r.coco := rfl
@[simp] theorem launch_hold (v : Half) (r : Regs) : (launch v r).hold = v := rfl
@[simp] theorem launch_pend (v : Half) (r : Regs) : (launch v r).pend = r.pend := rfl
@[simp] theorem launch_pendV (v : Half) (r : Regs) : (launch v r).pendV = 0#1 := rfl
@[simp] theorem launch_req (v : Half) (r : Regs) : (launch v r).req = ~~~r.req := rfl
@[simp] theorem launch_ackS (v : Half) (r : Regs) : (launch v r).ackS = r.ackS := rfl

/-! `park` (R154). -/

@[simp] theorem park_adcCtrl (v : Half) (r : Regs) : (park v r).adcCtrl = r.adcCtrl := rfl
@[simp] theorem park_adcSel (v : Half) (r : Regs) : (park v r).adcSel = r.adcSel := rfl
@[simp] theorem park_started (v : Half) (r : Regs) : (park v r).started = r.started := rfl
@[simp] theorem park_irqEn (v : Half) (r : Regs) : (park v r).irqEn = r.irqEn := rfl
@[simp] theorem park_pinAnalog (v : Half) (r : Regs) : (park v r).pinAnalog = r.pinAnalog := rfl
@[simp] theorem park_pinPwm (v : Half) (r : Regs) : (park v r).pinPwm = r.pinPwm := rfl
@[simp] theorem park_pwmCtrl (v : Half) (r : Regs) : (park v r).pwmCtrl = r.pwmCtrl := rfl
@[simp] theorem park_period (v : Half) (r : Regs) : (park v r).period = r.period := rfl
@[simp] theorem park_mod (v : Half) (r : Regs) : (park v r).mod = r.mod := rfl
@[simp] theorem park_cmp (v : Half) (r : Regs) : (park v r).cmp = r.cmp := rfl
@[simp] theorem park_sample (v : Half) (r : Regs) : (park v r).sample = r.sample := rfl
@[simp] theorem park_reqM (v : Half) (r : Regs) : (park v r).reqM = r.reqM := rfl
@[simp] theorem park_ack (v : Half) (r : Regs) : (park v r).ack = r.ack := rfl
@[simp] theorem park_lphase (v : Half) (r : Regs) : (park v r).lphase = r.lphase := rfl
@[simp] theorem park_snap (v : Half) (r : Regs) : (park v r).snap = r.snap := rfl
@[simp] theorem park_prod (v : Half) (r : Regs) : (park v r).prod = r.prod := rfl
@[simp] theorem park_dutyq (v : Half) (r : Regs) : (park v r).dutyq = r.dutyq := rfl
@[simp] theorem park_cnt (v : Half) (r : Regs) : (park v r).cnt = r.cnt := rfl
@[simp] theorem park_conv (v : Half) (r : Regs) : (park v r).conv = r.conv := rfl
@[simp] theorem park_result (v : Half) (r : Regs) : (park v r).result = r.result := rfl
@[simp] theorem park_coco (v : Half) (r : Regs) : (park v r).coco = r.coco := rfl
@[simp] theorem park_hold (v : Half) (r : Regs) : (park v r).hold = r.hold := rfl
@[simp] theorem park_pend (v : Half) (r : Regs) : (park v r).pend = v := rfl
@[simp] theorem park_pendV (v : Half) (r : Regs) : (park v r).pendV = 1#1 := rfl
@[simp] theorem park_req (v : Half) (r : Regs) : (park v r).req = r.req := rfl
@[simp] theorem park_ackS (v : Half) (r : Regs) : (park v r).ackS = r.ackS := rfl

/-! `writeDuty` (R124, R189). -/

@[simp] theorem writeDuty_adcCtrl (d : Half) (r : Regs) : (writeDuty d r).adcCtrl = r.adcCtrl := rfl
@[simp] theorem writeDuty_adcSel (d : Half) (r : Regs) : (writeDuty d r).adcSel = r.adcSel := rfl
@[simp] theorem writeDuty_started (d : Half) (r : Regs) : (writeDuty d r).started = r.started := rfl
@[simp] theorem writeDuty_irqEn (d : Half) (r : Regs) : (writeDuty d r).irqEn = r.irqEn := rfl
@[simp] theorem writeDuty_pinAnalog (d : Half) (r : Regs) : (writeDuty d r).pinAnalog = r.pinAnalog := rfl
@[simp] theorem writeDuty_pinPwm (d : Half) (r : Regs) : (writeDuty d r).pinPwm = r.pinPwm := rfl
@[simp] theorem writeDuty_pwmCtrl (d : Half) (r : Regs) : (writeDuty d r).pwmCtrl = r.pwmCtrl := rfl
@[simp] theorem writeDuty_period (d : Half) (r : Regs) : (writeDuty d r).period = r.period := rfl
@[simp] theorem writeDuty_mod (d : Half) (r : Regs) : (writeDuty d r).mod = r.mod := rfl
@[simp] theorem writeDuty_cmp (d : Half) (r : Regs) : (writeDuty d r).cmp = d := rfl
@[simp] theorem writeDuty_sample (d : Half) (r : Regs) : (writeDuty d r).sample = r.sample := rfl
@[simp] theorem writeDuty_reqM (d : Half) (r : Regs) : (writeDuty d r).reqM = r.reqM := rfl
@[simp] theorem writeDuty_ack (d : Half) (r : Regs) : (writeDuty d r).ack = r.ack := rfl
@[simp] theorem writeDuty_lphase (d : Half) (r : Regs) : (writeDuty d r).lphase = r.lphase := rfl
@[simp] theorem writeDuty_snap (d : Half) (r : Regs) : (writeDuty d r).snap = r.snap := rfl
@[simp] theorem writeDuty_prod (d : Half) (r : Regs) : (writeDuty d r).prod = r.prod := rfl
@[simp] theorem writeDuty_dutyq (d : Half) (r : Regs) : (writeDuty d r).dutyq = r.dutyq := rfl
@[simp] theorem writeDuty_cnt (d : Half) (r : Regs) : (writeDuty d r).cnt = r.cnt := rfl
@[simp] theorem writeDuty_conv (d : Half) (r : Regs) : (writeDuty d r).conv = r.conv := rfl
@[simp] theorem writeDuty_result (d : Half) (r : Regs) : (writeDuty d r).result = r.result := rfl
@[simp] theorem writeDuty_coco (d : Half) (r : Regs) : (writeDuty d r).coco = r.coco := rfl
@[simp] theorem writeDuty_hold (d : Half) (r : Regs) : (writeDuty d r).hold = r.hold := rfl
@[simp] theorem writeDuty_pend (d : Half) (r : Regs) : (writeDuty d r).pend = r.pend := rfl
@[simp] theorem writeDuty_pendV (d : Half) (r : Regs) : (writeDuty d r).pendV = r.pendV := rfl
@[simp] theorem writeDuty_req (d : Half) (r : Regs) : (writeDuty d r).req = r.req := rfl
@[simp] theorem writeDuty_ackS (d : Half) (r : Regs) : (writeDuty d r).ackS = r.ackS := rfl

/-! `configureSampler` (R121). -/

@[simp] theorem configureSampler_adcCtrl (ch : BitVec 8) (c a : Bit) (d : BitVec 2) (r : Regs) : (configureSampler ch c a d r).adcCtrl = AdcCtrl.configured c a d (channelField ch) := rfl
@[simp] theorem configureSampler_adcSel (ch : BitVec 8) (c a : Bit) (d : BitVec 2) (r : Regs) : (configureSampler ch c a d r).adcSel = r.adcSel := rfl
@[simp] theorem configureSampler_started (ch : BitVec 8) (c a : Bit) (d : BitVec 2) (r : Regs) : (configureSampler ch c a d r).started = r.started := rfl
@[simp] theorem configureSampler_irqEn (ch : BitVec 8) (c a : Bit) (d : BitVec 2) (r : Regs) : (configureSampler ch c a d r).irqEn = 1#1 := rfl
@[simp] theorem configureSampler_pinAnalog (ch : BitVec 8) (c a : Bit) (d : BitVec 2) (r : Regs) : (configureSampler ch c a d r).pinAnalog = r.pinAnalog ||| channelPin ch := rfl
@[simp] theorem configureSampler_pinPwm (ch : BitVec 8) (c a : Bit) (d : BitVec 2) (r : Regs) : (configureSampler ch c a d r).pinPwm = r.pinPwm := rfl
@[simp] theorem configureSampler_pwmCtrl (ch : BitVec 8) (c a : Bit) (d : BitVec 2) (r : Regs) : (configureSampler ch c a d r).pwmCtrl = r.pwmCtrl := rfl
@[simp] theorem configureSampler_period (ch : BitVec 8) (c a : Bit) (d : BitVec 2) (r : Regs) : (configureSampler ch c a d r).period = r.period := rfl
@[simp] theorem configureSampler_mod (ch : BitVec 8) (c a : Bit) (d : BitVec 2) (r : Regs) : (configureSampler ch c a d r).mod = r.mod := rfl
@[simp] theorem configureSampler_cmp (ch : BitVec 8) (c a : Bit) (d : BitVec 2) (r : Regs) : (configureSampler ch c a d r).cmp = r.cmp := rfl
@[simp] theorem configureSampler_sample (ch : BitVec 8) (c a : Bit) (d : BitVec 2) (r : Regs) : (configureSampler ch c a d r).sample = r.sample := rfl
@[simp] theorem configureSampler_reqM (ch : BitVec 8) (c a : Bit) (d : BitVec 2) (r : Regs) : (configureSampler ch c a d r).reqM = r.reqM := rfl
@[simp] theorem configureSampler_ack (ch : BitVec 8) (c a : Bit) (d : BitVec 2) (r : Regs) : (configureSampler ch c a d r).ack = r.ack := rfl
@[simp] theorem configureSampler_lphase (ch : BitVec 8) (c a : Bit) (d : BitVec 2) (r : Regs) : (configureSampler ch c a d r).lphase = r.lphase := rfl
@[simp] theorem configureSampler_snap (ch : BitVec 8) (c a : Bit) (d : BitVec 2) (r : Regs) : (configureSampler ch c a d r).snap = r.snap := rfl
@[simp] theorem configureSampler_prod (ch : BitVec 8) (c a : Bit) (d : BitVec 2) (r : Regs) : (configureSampler ch c a d r).prod = r.prod := rfl
@[simp] theorem configureSampler_dutyq (ch : BitVec 8) (c a : Bit) (d : BitVec 2) (r : Regs) : (configureSampler ch c a d r).dutyq = r.dutyq := rfl
@[simp] theorem configureSampler_cnt (ch : BitVec 8) (c a : Bit) (d : BitVec 2) (r : Regs) : (configureSampler ch c a d r).cnt = r.cnt := rfl
@[simp] theorem configureSampler_conv (ch : BitVec 8) (c a : Bit) (d : BitVec 2) (r : Regs) : (configureSampler ch c a d r).conv = r.conv := rfl
@[simp] theorem configureSampler_result (ch : BitVec 8) (c a : Bit) (d : BitVec 2) (r : Regs) : (configureSampler ch c a d r).result = r.result := rfl
@[simp] theorem configureSampler_coco (ch : BitVec 8) (c a : Bit) (d : BitVec 2) (r : Regs) : (configureSampler ch c a d r).coco = r.coco := rfl
@[simp] theorem configureSampler_hold (ch : BitVec 8) (c a : Bit) (d : BitVec 2) (r : Regs) : (configureSampler ch c a d r).hold = r.hold := rfl
@[simp] theorem configureSampler_pend (ch : BitVec 8) (c a : Bit) (d : BitVec 2) (r : Regs) : (configureSampler ch c a d r).pend = r.pend := rfl
@[simp] theorem configureSampler_pendV (ch : BitVec 8) (c a : Bit) (d : BitVec 2) (r : Regs) : (configureSampler ch c a d r).pendV = r.pendV := rfl
@[simp] theorem configureSampler_req (ch : BitVec 8) (c a : Bit) (d : BitVec 2) (r : Regs) : (configureSampler ch c a d r).req = r.req := rfl
@[simp] theorem configureSampler_ackS (ch : BitVec 8) (c a : Bit) (d : BitVec 2) (r : Regs) : (configureSampler ch c a d r).ackS = r.ackS := rfl

/-! `startConversion` (R122). -/

@[simp] theorem startConversion_adcCtrl (sel : BitVec 4) (r : Regs) : (startConversion sel r).adcCtrl = r.adcCtrl := rfl
@[simp] theorem startConversion_adcSel (sel : BitVec 4) (r : Regs) : (startConversion sel r).adcSel = sel := rfl
@[simp] theorem startConversion_started (sel : BitVec 4) (r : Regs) : (startConversion sel r).started = 1#1 := rfl
@[simp] theorem startConversion_irqEn (sel : BitVec 4) (r : Regs) : (startConversion sel r).irqEn = r.irqEn := rfl
@[simp] theorem startConversion_pinAnalog (sel : BitVec 4) (r : Regs) : (startConversion sel r).pinAnalog = r.pinAnalog := rfl
@[simp] theorem startConversion_pinPwm (sel : BitVec 4) (r : Regs) : (startConversion sel r).pinPwm = r.pinPwm := rfl
@[simp] theorem startConversion_pwmCtrl (sel : BitVec 4) (r : Regs) : (startConversion sel r).pwmCtrl = r.pwmCtrl := rfl
@[simp] theorem startConversion_period (sel : BitVec 4) (r : Regs) : (startConversion sel r).period = r.period := rfl
@[simp] theorem startConversion_mod (sel : BitVec 4) (r : Regs) : (startConversion sel r).mod = r.mod := rfl
@[simp] theorem startConversion_cmp (sel : BitVec 4) (r : Regs) : (startConversion sel r).cmp = r.cmp := rfl
@[simp] theorem startConversion_sample (sel : BitVec 4) (r : Regs) : (startConversion sel r).sample = r.sample := rfl
@[simp] theorem startConversion_reqM (sel : BitVec 4) (r : Regs) : (startConversion sel r).reqM = r.reqM := rfl
@[simp] theorem startConversion_ack (sel : BitVec 4) (r : Regs) : (startConversion sel r).ack = r.ack := rfl
@[simp] theorem startConversion_lphase (sel : BitVec 4) (r : Regs) : (startConversion sel r).lphase = r.lphase := rfl
@[simp] theorem startConversion_snap (sel : BitVec 4) (r : Regs) : (startConversion sel r).snap = r.snap := rfl
@[simp] theorem startConversion_prod (sel : BitVec 4) (r : Regs) : (startConversion sel r).prod = r.prod := rfl
@[simp] theorem startConversion_dutyq (sel : BitVec 4) (r : Regs) : (startConversion sel r).dutyq = r.dutyq := rfl
@[simp] theorem startConversion_cnt (sel : BitVec 4) (r : Regs) : (startConversion sel r).cnt = r.cnt := rfl
@[simp] theorem startConversion_conv (sel : BitVec 4) (r : Regs) : (startConversion sel r).conv = 1#1 := rfl
@[simp] theorem startConversion_result (sel : BitVec 4) (r : Regs) : (startConversion sel r).result = r.result := rfl
@[simp] theorem startConversion_coco (sel : BitVec 4) (r : Regs) : (startConversion sel r).coco = r.coco := rfl
@[simp] theorem startConversion_hold (sel : BitVec 4) (r : Regs) : (startConversion sel r).hold = r.hold := rfl
@[simp] theorem startConversion_pend (sel : BitVec 4) (r : Regs) : (startConversion sel r).pend = r.pend := rfl
@[simp] theorem startConversion_pendV (sel : BitVec 4) (r : Regs) : (startConversion sel r).pendV = r.pendV := rfl
@[simp] theorem startConversion_req (sel : BitVec 4) (r : Regs) : (startConversion sel r).req = r.req := rfl
@[simp] theorem startConversion_ackS (sel : BitVec 4) (r : Regs) : (startConversion sel r).ackS = r.ackS := rfl

/-! `configureTimer` (R123). -/

@[simp] theorem configureTimer_adcCtrl (p : Half) (r : Regs) : (configureTimer p r).adcCtrl = r.adcCtrl := rfl
@[simp] theorem configureTimer_adcSel (p : Half) (r : Regs) : (configureTimer p r).adcSel = r.adcSel := rfl
@[simp] theorem configureTimer_started (p : Half) (r : Regs) : (configureTimer p r).started = r.started := rfl
@[simp] theorem configureTimer_irqEn (p : Half) (r : Regs) : (configureTimer p r).irqEn = r.irqEn := rfl
@[simp] theorem configureTimer_pinAnalog (p : Half) (r : Regs) : (configureTimer p r).pinAnalog = r.pinAnalog := rfl
@[simp] theorem configureTimer_pinPwm (p : Half) (r : Regs) : (configureTimer p r).pinPwm = 1#1 := rfl
@[simp] theorem configureTimer_pwmCtrl (p : Half) (r : Regs) : (configureTimer p r).pwmCtrl = PwmCtrl.configured := rfl
@[simp] theorem configureTimer_period (p : Half) (r : Regs) : (configureTimer p r).period = p := rfl
@[simp] theorem configureTimer_mod (p : Half) (r : Regs) : (configureTimer p r).mod = p - 1#16 := rfl
@[simp] theorem configureTimer_cmp (p : Half) (r : Regs) : (configureTimer p r).cmp = 0#16 := rfl
@[simp] theorem configureTimer_sample (p : Half) (r : Regs) : (configureTimer p r).sample = r.sample := rfl
@[simp] theorem configureTimer_reqM (p : Half) (r : Regs) : (configureTimer p r).reqM = r.reqM := rfl
@[simp] theorem configureTimer_ack (p : Half) (r : Regs) : (configureTimer p r).ack = r.ack := rfl
@[simp] theorem configureTimer_lphase (p : Half) (r : Regs) : (configureTimer p r).lphase = r.lphase := rfl
@[simp] theorem configureTimer_snap (p : Half) (r : Regs) : (configureTimer p r).snap = r.snap := rfl
@[simp] theorem configureTimer_prod (p : Half) (r : Regs) : (configureTimer p r).prod = r.prod := rfl
@[simp] theorem configureTimer_dutyq (p : Half) (r : Regs) : (configureTimer p r).dutyq = r.dutyq := rfl
@[simp] theorem configureTimer_cnt (p : Half) (r : Regs) : (configureTimer p r).cnt = 0#16 := rfl
@[simp] theorem configureTimer_conv (p : Half) (r : Regs) : (configureTimer p r).conv = r.conv := rfl
@[simp] theorem configureTimer_result (p : Half) (r : Regs) : (configureTimer p r).result = r.result := rfl
@[simp] theorem configureTimer_coco (p : Half) (r : Regs) : (configureTimer p r).coco = r.coco := rfl
@[simp] theorem configureTimer_hold (p : Half) (r : Regs) : (configureTimer p r).hold = r.hold := rfl
@[simp] theorem configureTimer_pend (p : Half) (r : Regs) : (configureTimer p r).pend = r.pend := rfl
@[simp] theorem configureTimer_pendV (p : Half) (r : Regs) : (configureTimer p r).pendV = r.pendV := rfl
@[simp] theorem configureTimer_req (p : Half) (r : Regs) : (configureTimer p r).req = r.req := rfl
@[simp] theorem configureTimer_ackS (p : Half) (r : Regs) : (configureTimer p r).ackS = r.ackS := rfl

end Sys2Proof.Machine
end

