-- ==== Sys2Proof/Laws/Ops.lean ====
section
/-! SUPPORT. What each shared operation can do, once, so that later proofs cite it instead of unfolding it. -/

namespace Sys2Proof.Machine

theorem bit_cases (b : Bit) : b = 0#1 ∨ b = 1#1 := by
  revert b; decide

theorem bit_eq_one_of_ne_zero {b : Bit} (h : b ≠ 0#1) : b = 1#1 :=
  (bit_cases b).resolve_left h

theorem bit_eq_zero_of_ne_one {b : Bit} (h : b ≠ 1#1) : b = 0#1 :=
  (bit_cases b).resolve_right h

/-! Ending a step. -/

theorem finish_of_ready {s : State} (h : s.clocksReady = true) (c : Option Response) (r : Regs) :
    finish c r s = .next { s with regs := r, rsp := c } :=
  if_pos h

theorem finish_eq_next {c : Option Response} {r : Regs} {s t : State} :
    finish c r s = .next t ↔ s.clocksReady = true ∧ t = { s with regs := r, rsp := c } := by
  unfold finish
  by_cases h : s.clocksReady = true <;> simp [h, eq_comm]

theorem accept_eq_next {r : Regs} {s t : State} :
    accept r s = .next t ↔ s.clocksReady = true ∧ t = { s with regs := r, rsp := some .ok } :=
  finish_eq_next

theorem raise_eq_next {c : Response} {s t : State} :
    raise c s = .next t ↔ s.clocksReady = true ∧ t = { s with rsp := some c } :=
  finish_eq_next

/-! Derived signals. -/

theorem cdcIdle_iff {r : Regs} : cdcIdle r = true ↔ r.req = r.ackS := by
  simp [cdcIdle]

theorem irq_iff {r : Regs} : irq r = true ↔ r.coco = 1#1 ∧ AdcCtrl.ien r.adcCtrl = 1#1 ∧ r.irqEn = 1#1 := by
  simp [irq, and_assoc]

theorem running_iff {r : Regs} :
    running r = true ↔ AdcCtrl.pwr r.adcCtrl = 1#1 ∧ PwmCtrl.run r.pwmCtrl = 1#1 ∧ r.started = 1#1 := by
  simp [running, and_assoc]

/-! The handoff's sending half. -/

theorem publish_cases (v : Half) (r : Regs) :
    (r.req = r.ackS ∧ publish v r = launch v r) ∨ (r.req ≠ r.ackS ∧ publish v r = park v r) := by
  unfold publish
  by_cases h : r.req = r.ackS
  · exact .inl ⟨h, if_pos (cdcIdle_iff.2 h)⟩
  · exact .inr ⟨h, if_neg (mt cdcIdle_iff.1 h)⟩

/-! Operands. -/

theorem channelOutOfRange_iff {ch : BitVec 8} : channelOutOfRange ch = true ↔ 5 < ch.toNat :=
  decide_eq_true_iff

theorem channelField_toNat {ch : BitVec 8} (h : ch.toNat ≤ 5) : (channelField ch).toNat = ch.toNat := by
  revert ch; decide

theorem dutyOutOfRange_iff {duty : BitVec 28} : dutyOutOfRange duty = true ↔ 65535 < duty.toNat :=
  decide_eq_true_iff

theorem dutyField_toNat {duty : BitVec 28} (h : duty.toNat ≤ 65535) : (dutyField duty).toNat = duty.toNat := by
  simp only [dutyField, BitVec.extractLsb'_toNat, Nat.shiftRight_zero]
  exact Nat.mod_eq_of_lt (by omega)

theorem selCode_eq_none_iff {ch : BitVec 8} : selCode ch = none ↔ 5 < ch.toNat := by
  revert ch; decide

theorem avgsField_eq_none_iff {avg : Bit} {count : BitVec 8} :
    avgsField avg count = none ↔ count.toNat ∉ legalCounts ∨ avg = 1#1 ∧ count = 0#8 := by
  revert avg count; decide

/-! The fields of the configured control words. -/

theorem adcCtrl_configured_fields (cont avge : Bit) (avgs : BitVec 2) (ch : BitVec 3) :
    AdcCtrl.pwr (AdcCtrl.configured cont avge avgs ch) = 1#1 ∧
    AdcCtrl.lpwr (AdcCtrl.configured cont avge avgs ch) = 1#1 ∧
    AdcCtrl.lsmp (AdcCtrl.configured cont avge avgs ch) = 1#1 ∧
    AdcCtrl.m16 (AdcCtrl.configured cont avge avgs ch) = 1#1 ∧
    AdcCtrl.ien (AdcCtrl.configured cont avge avgs ch) = 1#1 ∧
    AdcCtrl.cont (AdcCtrl.configured cont avge avgs ch) = cont ∧
    AdcCtrl.avge (AdcCtrl.configured cont avge avgs ch) = avge ∧
    AdcCtrl.avgs (AdcCtrl.configured cont avge avgs ch) = avgs ∧
    AdcCtrl.ch (AdcCtrl.configured cont avge avgs ch) = ch := by
  revert cont avge avgs ch; decide

theorem pwmCtrl_configured_eq : PwmCtrl.configured = 0x1C7#9 := by
  decide

/-! The host commands: a command is accepted with its registers, or rejected with a code, or refused for want of clocks. -/

theorem execAdcCfg_cases {ch : BitVec 8} {cont avg : Bit} {count : BitVec 8} {s t : State}
    (h : execAdcCfg ch cont avg count s = .next t) :
    s.clocksReady = true ∧
      ((AdcCtrl.pwr s.regs.adcCtrl = 1#1 ∧ t = { s with rsp := some .rejSeq }) ∨
        (AdcCtrl.pwr s.regs.adcCtrl = 0#1 ∧ 5 < ch.toNat ∧ t = { s with rsp := some .rejChannel }) ∨
        (AdcCtrl.pwr s.regs.adcCtrl = 0#1 ∧ ch.toNat ≤ 5 ∧ avgsField avg count = none ∧ t = { s with rsp := some .rejAvg }) ∨
        (AdcCtrl.pwr s.regs.adcCtrl = 0#1 ∧ ch.toNat ≤ 5 ∧
          ∃ d, avgsField avg count = some d ∧
            t = { s with regs := configureSampler ch cont avg d s.regs, rsp := some .ok })) := by
  unfold execAdcCfg at h
  split at h
  · next hp => obtain ⟨hc, ht⟩ := raise_eq_next.1 h; exact ⟨hc, .inl ⟨hp, ht⟩⟩
  next hp =>
  have hp0 := bit_eq_zero_of_ne_one hp
  split at h
  · next hr =>
    have hr' : 5 < ch.toNat := channelOutOfRange_iff.1 hr
    obtain ⟨hc, ht⟩ := raise_eq_next.1 h
    exact ⟨hc, .inr (.inl ⟨hp0, hr', ht⟩)⟩
  next hr =>
  have hr' : ch.toNat ≤ 5 := Nat.le_of_not_lt fun hlt => hr (channelOutOfRange_iff.2 hlt)
  split at h
  · next hd => obtain ⟨hc, ht⟩ := raise_eq_next.1 h; exact ⟨hc, .inr (.inr (.inl ⟨hp0, hr', hd, ht⟩))⟩
  · next d hd => obtain ⟨hc, ht⟩ := accept_eq_next.1 h; exact ⟨hc, .inr (.inr (.inr ⟨hp0, hr', d, hd, ht⟩))⟩

theorem execAdcStart_cases {ch : BitVec 8} {s t : State} (h : execAdcStart ch s = .next t) :
    s.clocksReady = true ∧
      ((AdcCtrl.pwr s.regs.adcCtrl = 0#1 ∧ t = { s with rsp := some .rejSeq }) ∨
        (AdcCtrl.pwr s.regs.adcCtrl = 1#1 ∧ 5 < ch.toNat ∧ t = { s with rsp := some .rejChannel }) ∨
        (AdcCtrl.pwr s.regs.adcCtrl = 1#1 ∧ ch.toNat ≤ 5 ∧ channelField ch ≠ AdcCtrl.ch s.regs.adcCtrl ∧
          t = { s with rsp := some .rejSeq }) ∨
        (AdcCtrl.pwr s.regs.adcCtrl = 1#1 ∧ ch.toNat ≤ 5 ∧ channelField ch = AdcCtrl.ch s.regs.adcCtrl ∧
          ∃ sel, selCode ch = some sel ∧ t = { s with regs := startConversion sel s.regs, rsp := some .ok })) := by
  unfold execAdcStart at h
  split at h
  · next hp => obtain ⟨hc, ht⟩ := raise_eq_next.1 h; exact ⟨hc, .inl ⟨hp, ht⟩⟩
  next hp =>
  have hp1 := bit_eq_one_of_ne_zero hp
  split at h
  · next hs =>
    obtain ⟨hc, ht⟩ := raise_eq_next.1 h
    exact ⟨hc, .inr (.inl ⟨hp1, selCode_eq_none_iff.1 hs, ht⟩)⟩
  next sel hs =>
  have hr : ch.toNat ≤ 5 := Nat.le_of_not_lt fun hlt => by simp [selCode_eq_none_iff.2 hlt] at hs
  split at h
  · next hm => obtain ⟨hc, ht⟩ := raise_eq_next.1 h; exact ⟨hc, .inr (.inr (.inl ⟨hp1, hr, hm, ht⟩))⟩
  · next hm =>
    obtain ⟨hc, ht⟩ := accept_eq_next.1 h
    exact ⟨hc, .inr (.inr (.inr ⟨hp1, hr, not_not.1 hm, sel, hs, ht⟩))⟩

theorem execPwmCfg_cases {period : Half} {s t : State} (h : execPwmCfg period s = .next t) :
    s.clocksReady = true ∧
      ((PwmCtrl.run s.regs.pwmCtrl = 1#1 ∧ t = { s with rsp := some .rejSeq }) ∨
        (PwmCtrl.run s.regs.pwmCtrl = 0#1 ∧ period = 0#16 ∧ t = { s with rsp := some .rejPeriod }) ∨
        (PwmCtrl.run s.regs.pwmCtrl = 0#1 ∧ period ≠ 0#16 ∧
          t = { s with regs := configureTimer period s.regs, rsp := some .ok })) := by
  unfold execPwmCfg at h
  split at h
  · next hp => obtain ⟨hc, ht⟩ := raise_eq_next.1 h; exact ⟨hc, .inl ⟨hp, ht⟩⟩
  next hp =>
  have hp0 := bit_eq_zero_of_ne_one hp
  split at h
  · next hz => obtain ⟨hc, ht⟩ := raise_eq_next.1 h; exact ⟨hc, .inr (.inl ⟨hp0, hz, ht⟩)⟩
  · next hz => obtain ⟨hc, ht⟩ := accept_eq_next.1 h; exact ⟨hc, .inr (.inr ⟨hp0, hz, ht⟩)⟩

theorem execPwmSetDuty_cases {duty : BitVec 28} {s t : State} (h : execPwmSetDuty duty s = .next t) :
    s.clocksReady = true ∧
      ((65535 < duty.toNat ∧ t = { s with rsp := some .errDutyRange }) ∨
        (duty.toNat ≤ 65535 ∧ t = { s with regs := writeDuty (dutyField duty) s.regs, rsp := some .ok })) := by
  unfold execPwmSetDuty at h
  split at h
  · next hd =>
    have hd' : 65535 < duty.toNat := dutyOutOfRange_iff.1 hd
    obtain ⟨hc, ht⟩ := raise_eq_next.1 h
    exact ⟨hc, .inl ⟨hd', ht⟩⟩
  · next hd =>
    have hd' : duty.toNat ≤ 65535 := Nat.le_of_not_lt fun hlt => hd (dutyOutOfRange_iff.2 hlt)
    obtain ⟨hc, ht⟩ := accept_eq_next.1 h
    exact ⟨hc, .inr ⟨hd', ht⟩⟩

/-! Another agent's step, and the step of the machine. -/

theorem runInternal_eq_next {a : InternalStep} {s t : State} :
    runInternal a s = .next t ↔
      s.clocksReady = true ∧ t = { s with regs := (internalStep a s.regs).getD s.regs, rsp := none } := by
  unfold runInternal
  cases internalStep a s.regs <;> simp [finish_eq_next]

/-- Everything a step of the machine can do: a decoded command runs, an illegal word is answered, or another agent's step
runs or passes. -/
theorem step_cases {s t : State} (h : step s = .next t) :
    (∃ w i, s.nextEvent = .host w ∧ decode w = .ok i ∧ exec i s.take = .next t) ∨
    (∃ w e, s.nextEvent = .host w ∧ decode w = .error e ∧ s.clocksReady = true ∧
      t = { s.take with rsp := some .errIllegal }) ∨
    (∃ a, s.nextEvent = .internal a ∧ s.clocksReady = true ∧
      t = { s.take with regs := (internalStep a s.regs).getD s.regs }) := by
  unfold step at h
  split at h
  · next w hw =>
    split at h
    · next i hi => exact .inl ⟨w, i, hw, hi, h⟩
    · next e he =>
      obtain ⟨hc, ht⟩ := raise_eq_next.1 h
      exact .inr (.inl ⟨w, e, hw, he, hc, ht⟩)
  · next a ha =>
    obtain ⟨hc, ht⟩ := runInternal_eq_next.1 h
    exact .inr (.inr ⟨a, ha, hc, ht⟩)

end Sys2Proof.Machine
end

