-- ==== Sys2Proof/Laws/PerInstr.lean ====
section
/-! SUPPORT. One family over the commands as syntax: the encoding of each command is a word of its own row of the opcode map
(spec/30_encoding.md R98): every fixed bit as the row's match and mask say. -/

namespace Sys2Proof.Laws.EncodeMatchesRow

/-- The word a command is encoded as selects the row of the opcode map with the command's mnemonic. -/
def Statement (i : Instr) : Prop :=
  ∃ row ∈ opcodeMap, row.mnemonic = i.mnemonic ∧ encode i &&& row.mask = row.value

theorem nop : Statement .nop :=
  ⟨⟨.nop, 0x00000000#32, 0xFFFFFFFF#32⟩, by decide, rfl, by decide⟩

theorem adcCfg (ch : BitVec 8) (cont avg : Bit) (count : BitVec 8) : Statement (.adcCfg ch cont avg count) := by
  refine ⟨⟨.adcCfg, 0x10000000#32, 0xFF00FC00#32⟩, by decide, rfl, BitVec.eq_of_getLsbD_eq fun i hi => ?_⟩
  rw [BitVec.getLsbD_and, getLsbD_encode_adcCfg]
  interval_cases i <;> simp

theorem adcStart (ch : BitVec 8) : Statement (.adcStart ch) := by
  refine ⟨⟨.adcStart, 0x20000000#32, 0xFFFFFF00#32⟩, by decide, rfl, BitVec.eq_of_getLsbD_eq fun i hi => ?_⟩
  rw [BitVec.getLsbD_and, getLsbD_encode_adcStart]
  interval_cases i <;> simp

theorem pwmCfg (period : Half) : Statement (.pwmCfg period) := by
  refine ⟨⟨.pwmCfg, 0x30000000#32, 0xFFFF0000#32⟩, by decide, rfl, BitVec.eq_of_getLsbD_eq fun i hi => ?_⟩
  rw [BitVec.getLsbD_and, getLsbD_encode_pwmCfg]
  interval_cases i <;> simp

theorem pwmSetDuty (duty : BitVec 28) : Statement (.pwmSetDuty duty) := by
  refine ⟨⟨.pwmSetDuty, 0x40000000#32, 0xF0000000#32⟩, by decide, rfl, BitVec.eq_of_getLsbD_eq fun i hi => ?_⟩
  rw [BitVec.getLsbD_and, getLsbD_encode_pwmSetDuty]
  interval_cases i <;> simp

end Sys2Proof.Laws.EncodeMatchesRow
end

