-- ==== Sys2Proof/Laws/Step.lean ====
section
/-! SUPPORT. Everything one step can do to the registers, in one inversion lemma (`step_regsStep`): each invariant of the block is
then a case analysis of `RegsStep`. -/

namespace Sys2Proof.Machine

/-- What a step `e` of some agent can make of the registers `r`: nothing (a rejected or illegal command, `NOP`, a step that is
not enabled), or the effect of one of the step kinds of R5 under the condition it has it. -/
inductive RegsStep (e : Event) (r : Regs) : Regs → Prop where
  | same : (∀ a, e = .internal a → internalStep a r = none) → RegsStep e r r
  | adcCfg (ch : BitVec 8) (cont avg : Bit) (count : BitVec 8) (d : BitVec 2) :
      e.stepKind = .adcCfg → AdcCtrl.pwr r.adcCtrl = 0#1 → ch.toNat ≤ 5 → avgsField avg count = some d →
      RegsStep e r (configureSampler ch cont avg d r)
  | adcStart (ch : BitVec 8) (sel : BitVec 4) :
      e.stepKind = .adcStart → AdcCtrl.pwr r.adcCtrl = 1#1 → ch.toNat ≤ 5 →
      channelField ch = AdcCtrl.ch r.adcCtrl → selCode ch = some sel → RegsStep e r (startConversion sel r)
  | pwmCfg (period : Half) :
      e.stepKind = .pwmCfg → PwmCtrl.run r.pwmCtrl = 0#1 → period ≠ 0#16 → RegsStep e r (configureTimer period r)
  | pwmSetDuty (duty : BitVec 28) :
      e.stepKind = .pwmSetDuty → duty.toNat ≤ 65535 → RegsStep e r (writeDuty (dutyField duty) r)
  | convComplete (v : Half) :
      e = .internal (.convComplete v) → r.conv = 1#1 →
      RegsStep e r { r with result := v, coco := 1#1, conv := AdcCtrl.cont r.adcCtrl }
  | irqLaunch :
      e = .internal .irqService → irq r = true → r.req = r.ackS →
      RegsStep e r (launch r.result { r with coco := 0#1 })
  | irqPark :
      e = .internal .irqService → irq r = true → r.req ≠ r.ackS →
      RegsStep e r (park r.result { r with coco := 0#1 })
  | cdcRelaunch :
      e = .internal .cdcRelaunch → r.req = r.ackS → r.pendV = 1#1 → RegsStep e r (launch r.pend r)
  | cdcSyncReq : e = .internal .cdcSyncReq → r.reqM ≠ r.req → RegsStep e r { r with reqM := r.req }
  | cdcCapture :
      e = .internal .cdcCapture → r.reqM ≠ r.ack → RegsStep e r { r with sample := r.hold, ack := r.reqM }
  | cdcSyncAck : e = .internal .cdcSyncAck → r.ackS ≠ r.ack → RegsStep e r { r with ackS := r.ack }
  | loopSnap :
      e = .internal .loopSnap → running r = true → r.lphase = 0#2 →
      RegsStep e r { r with snap := r.sample, lphase := 1#2 }
  | loopMul :
      e = .internal .loopMul → running r = true → r.lphase = 1#2 →
      RegsStep e r { r with prod := mulStage r.period r.snap, lphase := 2#2 }
  | loopDiv :
      e = .internal .loopDiv → running r = true → r.lphase = 2#2 →
      RegsStep e r { r with dutyq := divStage r.prod, lphase := 3#2 }
  | loopApply :
      e = .internal .loopApply → running r = true → r.lphase = 3#2 →
      RegsStep e r { writeDuty r.dutyq r with lphase := 0#2 }
  | pwmTick :
      e = .internal .pwmTick → PwmCtrl.run r.pwmCtrl = 1#1 → RegsStep e r { r with cnt := nextCount r.cnt r.mod }
  | reset : e = .internal .reset → RegsStep e r Regs.reset

/-- The handler: enabled by `irq`, it launches or parks the result it reads (R152, R154). -/
theorem irqService_cases {r t : Regs} (h : irqService r = some t) :
    irq r = true ∧
      ((r.req = r.ackS ∧ t = launch r.result { r with coco := 0#1 }) ∨
        (r.req ≠ r.ackS ∧ t = park r.result { r with coco := 0#1 })) := by
  unfold irqService at h
  split at h
  · next hi =>
    cases h
    exact ⟨hi, publish_cases r.result { r with coco := 0#1 }⟩
  · cases h

/-- An enabled step of another agent, as its case of `RegsStep`. -/
theorem internalStep_regsStep {a : InternalStep} {r t : Regs} (h : internalStep a r = some t) :
    RegsStep (.internal a) r t := by
  cases a with
  | irqService =>
    obtain ⟨hi, ⟨hs, rfl⟩ | ⟨hs, rfl⟩⟩ := irqService_cases h
    · exact .irqLaunch rfl hi hs
    · exact .irqPark rfl hi hs
  | reset => cases h; exact .reset rfl
  | convComplete v => simp only [internalStep, convComplete] at h; split at h <;> cases h; exact .convComplete v rfl ‹_›
  | cdcSyncReq => simp only [internalStep, cdcSyncReq] at h; split at h <;> cases h; exact .cdcSyncReq rfl ‹_›
  | cdcCapture => simp only [internalStep, cdcCapture] at h; split at h <;> cases h; exact .cdcCapture rfl ‹_›
  | cdcSyncAck => simp only [internalStep, cdcSyncAck] at h; split at h <;> cases h; exact .cdcSyncAck rfl ‹_›
  | pwmTick => simp only [internalStep, pwmTick] at h; split at h <;> cases h; exact .pwmTick rfl ‹_›
  | cdcRelaunch =>
    simp only [internalStep, cdcRelaunch] at h; split at h <;> cases h
    next hc => exact .cdcRelaunch rfl (cdcIdle_iff.1 hc.1) hc.2
  | loopSnap => simp only [internalStep, loopSnap] at h; split at h <;> cases h; next hc => exact .loopSnap rfl hc.1 hc.2
  | loopMul => simp only [internalStep, loopMul] at h; split at h <;> cases h; next hc => exact .loopMul rfl hc.1 hc.2
  | loopDiv => simp only [internalStep, loopDiv] at h; split at h <;> cases h; next hc => exact .loopDiv rfl hc.1 hc.2
  | loopApply => simp only [internalStep, loopApply] at h; split at h <;> cases h; next hc => exact .loopApply rfl hc.1 hc.2

/-- The event that presents a command is no step of another agent. -/
theorem not_internal_of_stepKind {e : Event} {m : Mnemonic} (he : e.stepKind = Mnemonic.stepKind m) (a : InternalStep) :
    e ≠ .internal a := by
  rintro rfl
  cases m <;> cases a <;> cases he

/-- A host command, as its case of `RegsStep` for the event that presents it. -/
theorem exec_regsStep {e : Event} {i : Instr} {s t : State} (he : e.stepKind = Mnemonic.stepKind i.mnemonic)
    (h : exec i s = .next t) : RegsStep e s.regs t.regs := by
  have unchanged : RegsStep e s.regs s.regs := .same fun a ha => absurd ha (not_internal_of_stepKind he a)
  cases i with
  | nop => obtain ⟨_, rfl⟩ := accept_eq_next.1 h; exact unchanged
  | adcCfg ch cont avg count =>
    obtain ⟨_, ⟨_, rfl⟩ | ⟨_, _, rfl⟩ | ⟨_, _, _, rfl⟩ | ⟨hp, hr, d, hd, rfl⟩⟩ := execAdcCfg_cases h
    · exact unchanged
    · exact unchanged
    · exact unchanged
    · exact .adcCfg ch cont avg count d he hp hr hd
  | adcStart ch =>
    obtain ⟨_, ⟨_, rfl⟩ | ⟨_, _, rfl⟩ | ⟨_, _, _, rfl⟩ | ⟨hp, hr, hm, sel, hs, rfl⟩⟩ := execAdcStart_cases h
    · exact unchanged
    · exact unchanged
    · exact unchanged
    · exact .adcStart ch sel he hp hr hm hs
  | pwmCfg period =>
    obtain ⟨_, ⟨_, rfl⟩ | ⟨_, _, rfl⟩ | ⟨hp, hz, rfl⟩⟩ := execPwmCfg_cases h
    · exact unchanged
    · exact unchanged
    · exact .pwmCfg period he hp hz
  | pwmSetDuty duty =>
    obtain ⟨_, ⟨_, rfl⟩ | ⟨hd, rfl⟩⟩ := execPwmSetDuty_cases h
    · exact unchanged
    · exact .pwmSetDuty duty he hd

/-- Every step of the machine is one of the cases of `RegsStep`. -/
theorem step_regsStep {s t : State} (h : step s = .next t) : RegsStep s.nextEvent s.regs t.regs := by
  rcases step_cases h with ⟨w, i, hw, hi, hx⟩ | ⟨w, e, hw, _, _, rfl⟩ | ⟨a, ha, _, rfl⟩
  · exact exec_regsStep (s := s.take) (by rw [hw]; simp [Event.stepKind, hi]) hx
  · exact .same fun a ha => by rw [hw] at ha; cases ha
  · rw [ha]
    cases hr : internalStep a s.regs with
    | none => exact .same fun b hb => by cases hb; exact hr
    | some r => exact internalStep_regsStep hr

end Sys2Proof.Machine
end

