-- ==== Sys2Proof/Laws/Runs.lean ====
section
/-! SUPPORT. What one step of an infinite run can do, and the one way weak fairness is used: a step that stays enabled while it
is not taken is taken. -/

namespace Sys2Proof.Machine

/-- Each step of a run is a case of `RegsStep` for the step that was chosen. -/
theorem isRun_regsStep {σ : Nat → State} {ε : Nat → Event} (h : IsRun σ ε) (n : Nat) :
    RegsStep (ε n) (σ n).regs (σ (n + 1)).regs := by
  simpa using step_regsStep (h n)

/-- What holds at an instant and is kept by every later step holds at every later instant. -/
theorem holds_from {P : Nat → Prop} {n : Nat} (start : P n) (keep : ∀ m, n ≤ m → P m → P (m + 1)) :
    ∀ m, n ≤ m → P m := by
  intro m hm
  induction m, hm using Nat.le_induction with
  | base => exact start
  | succ m hm ih => exact keep m hm ih

/-- Weak fairness, used: where `P` enables a step `a` of a fair agent and every other step keeps `P`, the step `a` is taken in a
state in which `P` still holds. -/
theorem taken_of_weaklyFair {σ : Nat → State} {ε : Nat → Event} {a : InternalStep} {P : Nat → Prop} {n : Nat}
    (fair : WeaklyFair σ ε) (ha : a.agent.isFair = true) (start : P n)
    (enables : ∀ m, n ≤ m → P m → enabled a (σ m).regs = true)
    (keep : ∀ m, n ≤ m → P m → ε m ≠ .internal a → P (m + 1)) :
    ∃ m, n ≤ m ∧ ε m = .internal a ∧ P m := by
  by_contra none
  have always : ∀ m, n ≤ m → P m :=
    holds_from start fun m hm hp => keep m hm hp fun he => none ⟨m, hm, he, hp⟩
  obtain ⟨m, hm, he⟩ := fair a ha n fun m hm => enables m hm (always m hm)
  exact none ⟨m, hm, he, always m hm⟩

end Sys2Proof.Machine
end

