-- ==== Sys2Proof/Tests/Slice0.lean ====
section
/-! SUPPORT. Tests: expected results are the vectors of spec/95_test_vectors.md, each named by its id, or are written out by hand
from the rule the comment cites. The second half gives every statement of Obligations.lean that has hypotheses a state and
operands that meet them together. -/

namespace Sys2Proof.Tests

open Sys2Proof Sys2Proof.Machine

/-! ### Small builders -/

/-- The reset state with other registers and a given schedule. -/
def stateAt (r : Regs) (es : List Event) : State := { State.reset with regs := r, sched := es }

/-- The registers after V-PC1: `PWM_CFG 256` from reset. -/
def timed : Regs :=
  { Regs.reset with pwmCtrl := 0x1C7#9, period := 0x0100#16, mod := 0x00FF#16, pinPwm := 1#1 }

/-- The registers after `PWM_CFG 4` from reset (V-T1). -/
def timed4 : Regs := { timed with period := 4#16, mod := 3#16 }

/-- The registers after V-A1: `ADC_CFG 0, 1, 1, 4` from reset. -/
def configured : Regs := { Regs.reset with adcCtrl := 0x07F#12, irqEn := 1#1, pinAnalog := 0b000001#6 }

/-- The registers after V-S2: `ADC_START 0` after V-A1, the start of V-HO1. -/
def sampling : Regs := { configured with adcSel := 0x8#4, conv := 1#1, started := 1#1 }

/-- The registers the V-LP vectors start from: sampling, the timer running, `SAMPLE` = 0xFFFF. -/
def looping : Regs :=
  { sampling with pwmCtrl := 0x1C7#9, period := 0x0100#16, mod := 0x00FF#16, pinPwm := 1#1, sample := 0xFFFF#16 }

/-- One host step on a command word. -/
def send (r : Regs) (w : Nat) : StepOutcome := step ((stateAt r []).withFetchWord 32 w)

/-- One step of another agent. -/
def run (r : Regs) (a : InternalStep) : StepOutcome := step (stateAt r [.internal a])

/-- The outcome is a next state with these registers and this answer. -/
def leaves (o : StepOutcome) (r : Regs) (c : Option Response) : Bool :=
  match o with
  | .next t => decide (t.regs = r ∧ t.rsp = c)
  | _ => false

/-! ### WellFormed -/

/-- R104: one well-formed command, and an ill-formed one for each check: the wrong number of operands, and an operand that
does not fit its field ("for example `ADC_START 256`"). -/
theorem test_wellFormed_smoke :
    AsmCommand.wellFormed ⟨.adcCfg, [255, 1, 1, 255]⟩ = true ∧
    AsmCommand.arityOk ⟨.adcCfg, [0, 1, 1]⟩ = false ∧ AsmCommand.wellFormed ⟨.adcCfg, [0, 1, 1]⟩ = false ∧
    AsmCommand.operandsFit ⟨.adcStart, [256]⟩ = false ∧ AsmCommand.wellFormed ⟨.adcStart, [256]⟩ = false ∧
    AsmCommand.wellFormed ⟨.nop, [0]⟩ = false ∧ AsmCommand.wellFormed ⟨.adcCfg, [0, 2, 1, 4]⟩ = false ∧
    AsmCommand.wellFormed ⟨.pwmCfg, [65536]⟩ = false ∧ AsmCommand.wellFormed ⟨.pwmSetDuty, [268435456]⟩ = false := by
  decide

/-! ### Decode: words written out bit by bit from R91, then vectors V-E -/

/-- Format N: `op` 0000, 28 reserved zeros. -/
theorem test_decode_nop : decode 0b0000_0000000000000000000000000000#32 = .ok .nop := by decide

/-- Format A: `op` 0001, 0000, `count` 00100000, 000000, `avg` 0, `cont` 1, `ch` 00000010. -/
theorem test_decode_adcCfg :
    decode 0b0001_0000_00100000_000000_0_1_00000010#32 = .ok (.adcCfg 2#8 1#1 0#1 32#8) := by decide

/-- Format S: `op` 0010, 20 reserved zeros, `ch` 10000101. -/
theorem test_decode_adcStart : decode 0b0010_00000000000000000000_10000101#32 = .ok (.adcStart 0x85#8) := by decide

/-- Format P: `op` 0011, 12 reserved zeros, `period` 1000000000000011. -/
theorem test_decode_pwmCfg : decode 0b0011_000000000000_1000000000000011#32 = .ok (.pwmCfg 0x8003#16) := by decide

/-- Format D: `op` 0100, `duty` 1000000000000000000000000110. -/
theorem test_decode_pwmSetDuty :
    decode 0b0100_1000000000000000000000000110#32 = .ok (.pwmSetDuty 0x8000006#28) := by decide

/-- V-E1 to V-E16: each command encodes as the word given for it. -/
theorem test_encode_vectors :
    encode .nop = 0x00000000#32 ∧ encode (.adcCfg 0#8 1#1 1#1 4#8) = 0x10040300#32 ∧
    encode (.adcCfg 2#8 1#1 1#1 32#8) = 0x10200302#32 ∧ encode (.adcCfg 5#8 0#1 0#1 0#8) = 0x10000005#32 ∧
    encode (.adcCfg 3#8 1#1 0#1 16#8) = 0x10100103#32 ∧ encode (.adcCfg 255#8 0#1 0#1 0#8) = 0x100000FF#32 ∧
    encode (.adcCfg 0#8 0#1 0#1 255#8) = 0x10FF0000#32 ∧ encode (.adcStart 0#8) = 0x20000000#32 ∧
    encode (.adcStart 5#8) = 0x20000005#32 ∧ encode (.pwmCfg 256#16) = 0x30000100#32 ∧
    encode (.pwmCfg 65535#16) = 0x3000FFFF#32 ∧ encode (.pwmCfg 1000#16) = 0x300003E8#32 ∧
    encode (.pwmSetDuty 128#28) = 0x40000080#32 ∧ encode (.pwmSetDuty 65535#28) = 0x4000FFFF#32 ∧
    encode (.pwmSetDuty 65536#28) = 0x40010000#32 ∧ encode (.pwmSetDuty 268435455#28) = 0x4FFFFFFF#32 := by
  decide

/-- V-E18 to V-E24: reserved bits are refused by name. -/
theorem test_decode_reserved_bits :
    decode 0x00000001#32 = .error .reservedBits ∧ decode 0x11040300#32 = .error .reservedBits ∧
    decode 0x10040700#32 = .error .reservedBits ∧ decode 0x10048300#32 = .error .reservedBits ∧
    decode 0x20000100#32 = .error .reservedBits ∧ decode 0x2F000000#32 = .error .reservedBits ∧
    decode 0x30010000#32 = .error .reservedBits := by
  decide

/-- V-E25 to V-E30: reserved opcodes are refused by name; format D has no reserved bit and an all-ones format A decodes. -/
theorem test_decode_edges :
    decode 0x50000000#32 = .error .reservedOpcode ∧ decode 0x80000000#32 = .error .reservedOpcode ∧
    decode 0xF0000000#32 = .error .reservedOpcode ∧ decode 0xFFFFFFFF#32 = .error .reservedOpcode ∧
    decode 0x4FFFFFFF#32 = .ok (.pwmSetDuty 268435455#28) ∧ decode 0x10FF03FF#32 = .ok (.adcCfg 255#8 1#1 1#1 255#8) := by
  decide

/-- R106: the table's words, numbered as it numbers them; a word longer than a command is none. -/
theorem test_decodeTableWord :
    decodeTableWord 32 0x10040300 = some (.adcCfg 0#8 1#1 1#1 4#8) ∧ decodeTableWord 32 0x50000000 = none ∧
    decodeTableWord 40 0 = none := by
  decide

/-- R104: the assembler form as text: `PWM_CFG 0x100` is V-E10, `ADC_CFG 2, 1, 1, 32` is V-E3, and `ADC_START 256` and a lower
case mnemonic are refused. -/
theorem test_assemble_text :
    assembleLine ['P', 'W', 'M', '_', 'C', 'F', 'G', ' ', '0', 'x', '1', '0', '0'] = some 0x30000100#32 ∧
    assembleLine
      ['A', 'D', 'C', '_', 'C', 'F', 'G', ' ', '2', ',', ' ', '1', ',', ' ', '1', ',', ' ', '3', '2'] =
        some 0x10200302#32 ∧
    assembleLine ['A', 'D', 'C', '_', 'S', 'T', 'A', 'R', 'T', ' ', '2', '5', '6'] = none ∧
    assembleLine ['n', 'o', 'p'] = none ∧ assembleLine ['N', 'O', 'P'] = some 0x00000000#32 := by
  decide

/-! ### Host steps, through `step` and `withFetchWord` -/

/-- V-I8: `NOP`. -/
theorem test_nop : leaves (send Regs.reset 0x00000000) Regs.reset (some .ok) = true := by decide

/-- V-I1, V-I6, V-I7: illegal words leave the state alone. -/
theorem test_illegal :
    leaves (send looping 0x00000001) looping (some .errIllegal) = true ∧
    leaves (send looping 0x50000000) looping (some .errIllegal) = true ∧
    leaves (send looping 0xFFFFFFFF) looping (some .errIllegal) = true := by
  decide

/-- V-A1 to V-A3, V-A6, V-A15: `ADC_CFG` accepted. -/
theorem test_adcCfg_accepted :
    leaves (send Regs.reset 0x10040300) configured (some .ok) = true ∧
    leaves (send Regs.reset 0x10200302)
      { Regs.reset with adcCtrl := 0x5FF#12, irqEn := 1#1, pinAnalog := 0b000100#6 } (some .ok) = true ∧
    leaves (send Regs.reset 0x10000005)
      { Regs.reset with adcCtrl := 0xA1F#12, irqEn := 1#1, pinAnalog := 0b100000#6 } (some .ok) = true ∧
    leaves (send Regs.reset 0x10100103)
      { Regs.reset with adcCtrl := 0x63F#12, irqEn := 1#1, pinAnalog := 0b001000#6 } (some .ok) = true ∧
    leaves (send Regs.reset 0x10100204)
      { Regs.reset with adcCtrl := 0x95F#12, irqEn := 1#1, pinAnalog := 0b010000#6 } (some .ok) = true := by
  decide

/-- V-A4, V-A7, V-A8, V-A13, V-A17: `ADC_CFG` rejected, the first failing check giving the code. -/
theorem test_adcCfg_rejected :
    leaves (send Regs.reset 0x10040306) Regs.reset (some .rejChannel) = true ∧
    leaves (send Regs.reset 0x10050000) Regs.reset (some .rejAvg) = true ∧
    leaves (send Regs.reset 0x10000200) Regs.reset (some .rejAvg) = true ∧
    leaves (send Regs.reset 0x10050206) Regs.reset (some .rejChannel) = true ∧
    leaves (send configured 0x10040306) configured (some .rejSeq) = true := by
  decide

/-- V-S2, and V-S14 on a single-shot sampler: `ADC_START` accepted; `COCO` and `RESULT` are not touched. -/
theorem test_adcStart_accepted :
    leaves (send configured 0x20000000) sampling (some .ok) = true ∧
    leaves
      (send { Regs.reset with
          adcCtrl := 0x61F#12, irqEn := 1#1, pinAnalog := 0b001000#6, adcSel := 0xD#4, started := 1#1, coco := 1#1,
          result := 0x00FF#16 } 0x20000003)
      { Regs.reset with
          adcCtrl := 0x61F#12, irqEn := 1#1, pinAnalog := 0b001000#6, adcSel := 0xD#4, started := 1#1, coco := 1#1,
          result := 0x00FF#16, conv := 1#1 } (some .ok) = true := by
  decide

/-- V-S1, V-S3, V-S5, V-S13: `ADC_START` rejected. -/
theorem test_adcStart_rejected :
    leaves (send Regs.reset 0x20000000) Regs.reset (some .rejSeq) = true ∧
    leaves (send configured 0x20000001) configured (some .rejSeq) = true ∧
    leaves (send configured 0x200000FF) configured (some .rejChannel) = true ∧
    leaves (send Regs.reset 0x20000006) Regs.reset (some .rejSeq) = true := by
  decide

/-- V-PC1, V-PC3, V-PC7: `PWM_CFG` accepted, an earlier duty set back to 0. -/
theorem test_pwmCfg_accepted :
    leaves (send Regs.reset 0x30000100) timed (some .ok) = true ∧
    leaves (send Regs.reset 0x30000001) { timed with period := 1#16, mod := 0#16 } (some .ok) = true ∧
    leaves (send { Regs.reset with cmp := 0x1234#16 } 0x30000004) timed4 (some .ok) = true := by
  decide

/-- V-PC2, V-PC6: `PWM_CFG` rejected, the sequence check before the period check. -/
theorem test_pwmCfg_rejected :
    leaves (send Regs.reset 0x30000000) Regs.reset (some .rejPeriod) = true ∧
    leaves (send timed 0x30000000) timed (some .rejSeq) = true := by
  decide

/-- V-DU1, V-DU2, V-DU7: `PWM_SETDUTY` accepted, above the period and before `PWM_CFG` too. -/
theorem test_pwmSetDuty_accepted :
    leaves (send timed 0x40000080) { timed with cmp := 0x0080#16 } (some .ok) = true ∧
    leaves (send timed 0x4000FFFF) { timed with cmp := 0xFFFF#16 } (some .ok) = true ∧
    leaves (send Regs.reset 0x40000080) { Regs.reset with cmp := 0x0080#16 } (some .ok) = true := by
  decide

/-- V-DU3, V-DU4: `PWM_SETDUTY` rejected, the low 16 bits not written. -/
theorem test_pwmSetDuty_rejected :
    leaves (send timed 0x40010000) timed (some .errDutyRange) = true ∧
    leaves (send { timed with cmp := 0x0080#16 } 0x4FFFFFFF) { timed with cmp := 0x0080#16 } (some .errDutyRange) = true := by
  decide

/-- The word of `ADC_START 0` is the very next step after reset, and is answered (V-S1). -/
theorem test_withFetchWord_runs_next :
    step (State.reset.withFetchWord 32 0x20000000) = .next { State.reset with rsp := some .rejSeq, turn := 1 } := rfl

/-! ### The steps of the other agents -/

/-- V-HO1, V-HO14: a completion in continuous and in single-shot mode. -/
theorem test_convComplete :
    leaves (run sampling (.convComplete 0xABCD#16)) { sampling with result := 0xABCD#16, coco := 1#1 } none = true ∧
    leaves (run { sampling with adcCtrl := 0x61F#12 } (.convComplete 0x00FF#16))
      { sampling with adcCtrl := 0x61F#12, result := 0x00FF#16, coco := 1#1, conv := 0#1 } none = true := by
  decide

/-- V-HO2 and step 6 of program P3: the handler launches where the handoff is idle and parks where it is not. -/
theorem test_irqService :
    leaves (run { sampling with result := 0xABCD#16, coco := 1#1 } .irqService)
      { sampling with result := 0xABCD#16, hold := 0xABCD#16, req := 1#1 } none = true ∧
    leaves (run { sampling with result := 0x2222#16, coco := 1#1, hold := 0x1111#16, req := 1#1 } .irqService)
      { sampling with result := 0x2222#16, hold := 0x1111#16, req := 1#1, pend := 0x2222#16, pendV := 1#1 } none = true := by
  decide

/-- V-HO3 to V-HO5 and step 13 of program P3: the four handoff steps. -/
theorem test_handoff :
    internalStep .cdcSyncReq { sampling with hold := 0xABCD#16, req := 1#1 } =
      some { sampling with hold := 0xABCD#16, req := 1#1, reqM := 1#1 } ∧
    internalStep .cdcCapture { sampling with hold := 0xABCD#16, req := 1#1, reqM := 1#1 } =
      some { sampling with hold := 0xABCD#16, req := 1#1, reqM := 1#1, sample := 0xABCD#16, ack := 1#1 } ∧
    internalStep .cdcSyncAck { sampling with req := 1#1, reqM := 1#1, ack := 1#1 } =
      some { sampling with req := 1#1, reqM := 1#1, ack := 1#1, ackS := 1#1 } ∧
    internalStep .cdcRelaunch
        { sampling with req := 1#1, reqM := 1#1, ack := 1#1, ackS := 1#1, pend := 0x4444#16, pendV := 1#1 } =
      some { sampling with reqM := 1#1, ack := 1#1, ackS := 1#1, hold := 0x4444#16, pend := 0x4444#16 } := by
  decide

/-- V-LP1 to V-LP4: the loop. -/
theorem test_loop :
    internalStep .loopSnap looping = some { looping with snap := 0xFFFF#16, lphase := 1#2 } ∧
    internalStep .loopMul { looping with snap := 0xFFFF#16, lphase := 1#2 } =
      some { looping with snap := 0xFFFF#16, prod := 0x00FFFF00#32, lphase := 2#2 } ∧
    internalStep .loopDiv { looping with prod := 0x00FFFF00#32, lphase := 2#2 } =
      some { looping with prod := 0x00FFFF00#32, dutyq := 0x0100#16, lphase := 3#2 } ∧
    internalStep .loopApply { looping with dutyq := 0x0100#16, lphase := 3#2 } =
      some { looping with dutyq := 0x0100#16, cmp := 0x0100#16 } := by
  decide

/-- V-T1, V-T7: the counter counts, and wraps at `MOD`. -/
theorem test_pwmTick :
    internalStep .pwmTick { timed4 with cnt := 2#16 } = some { timed4 with cnt := 3#16 } ∧
    internalStep .pwmTick { timed4 with cnt := 3#16 } = some timed4 ∧
    internalStep .pwmTick { timed with period := 0xFFFF#16, mod := 0xFFFE#16, cnt := 0xFFFE#16 } =
      some { timed with period := 0xFFFF#16, mod := 0xFFFE#16 } := by
  decide

/-- V-HO6 to V-HO8, V-LP5, V-T8: at reset no step of another agent but `RESET` is enabled, and its turn changes no register. -/
theorem test_nothing_enabled_at_reset :
    ([.convComplete 7#16, .irqService, .cdcRelaunch, .cdcSyncReq, .cdcCapture, .cdcSyncAck, .loopSnap, .loopMul, .loopDiv,
      .loopApply, .pwmTick] : List InternalStep).all
        (fun a => !enabled a Regs.reset && leaves (run Regs.reset a) Regs.reset none) = true := by
  decide

/-- V-RS1: `RESET` out of a running loop. -/
theorem test_reset_clears : leaves (run looping .reset) Regs.reset none = true := by decide

/-- V-M1, V-M3, V-M5 to V-M9, V-M18, V-M31, V-M34: the scaler. -/
theorem test_scale :
    ([(256, 32768, 0x0080), (256, 65535, 0x0100), (1, 65534, 0), (1, 65535, 1), (65535, 65535, 0xFFFF), (65535, 1, 1),
      (65535, 65534, 0xFFFE), (48000, 12345, 0x2351), (256, 33023, 0x0080), (0, 65535, 0)] : List (Nat × Nat × Nat)).all
        (fun v => scale (BitVec.ofNat 16 v.1) (BitVec.ofNat 16 v.2.1) == BitVec.ofNat 16 v.2.2) = true := by
  decide

/-- V-T2 to V-T5, V-T9: the output level by count and duty, and the two gates. -/
theorem test_pwmOut :
    pwmOut { timed4 with cmp := 1#16 } = true ∧ pwmOut { timed4 with cmp := 1#16, cnt := 1#16 } = false ∧
    pwmOut { timed4 with cmp := 4#16, cnt := 3#16 } = true ∧ pwmOut { timed4 with cmp := 5#16, cnt := 3#16 } = true ∧
    pwmOut timed4 = false ∧ pwmOut { Regs.reset with cmp := 128#16 } = false := by
  decide

/-- R71: the output ports after V-A1 on a running timer. -/
theorem test_outputs :
    outputs (stateAt looping []) =
      { rsp := none, adcSel := 0x8#4, adcGo := 1#1, adcCfg := 0x07F#12, irq := 0#1, pinAnalog := 0b000001#6, pinPwm := 1#1,
        pwmOut := 0#1 } := by
  decide

/-! ### Witnesses: the hypotheses of each statement are met, each clause at a boundary of its range -/

/-- Registers in the middle of a transfer: 0xABCD in flight, 0x1234 waiting behind it, a third result not served yet. -/
def transferring : Regs :=
  { looping with
    hold := 0xABCD#16, req := 1#1, pend := 0x1234#16, pendV := 1#1, result := 0x5678#16, coco := 1#1 }

/-- Registers in the middle of an iteration on the sample 0xFFFF: the duty is ready to be applied. -/
def applying : Regs :=
  { looping with snap := 0xFFFF#16, prod := 0x00FFFF00#32, dutyq := 0x0100#16, lphase := 3#2 }

theorem witness_EncodeOfDecodeIsIdentity :
    decode 0x10FF03FF#32 = .ok (.adcCfg 255#8 1#1 1#1 255#8) ∧ decode 0x4FFFFFFF#32 = .ok (.pwmSetDuty 268435455#28) := by
  decide

theorem witness_IllegalWordIsRejected :
    ((stateAt looping [.host 0x50000000#32]).clocksReady = true ∧
      (stateAt looping [.host 0x50000000#32]).nextEvent = .host 0x50000000#32 ∧
      decode 0x50000000#32 = .error .reservedOpcode) ∧
    ((stateAt looping [.host 0x00000001#32]).nextEvent = .host 0x00000001#32 ∧
      decode 0x00000001#32 = .error .reservedBits) := by
  decide

theorem witness_AssemblerAcceptsWhatFits :
    assemble ⟨.adcCfg, [2, 1, 0, 32]⟩ = some (.adcCfg 2#8 1#1 0#1 32#8) ∧ assemble ⟨.nop, []⟩ = some .nop := by
  decide

theorem witness_NopAnswersOk :
    (stateAt looping []).clocksReady = true ∧ (0x00000001#32 : Word).extractLsb' 28 4 = 0x0#4 ∧
    (0x08000000#32 : Word).extractLsb' 28 4 = 0x0#4 := by
  decide

/-- The decoding clauses of the four statements about a command: an all-ones word of each format,
and a format A word with a reserved bit set. -/
theorem witness_command_words :
    ((0x10FF03FF#32 : Word).extractLsb' 28 4 = 0x1#4 ∧ (0x10FF03FF#32 : Word).extractLsb' 24 4 = 0#4 ∧
      (0x10FF03FF#32 : Word).extractLsb' 10 6 = 0#6) ∧
    ((0x10040700#32 : Word).extractLsb' 28 4 = 0x1#4 ∧ (0x10040700#32 : Word).extractLsb' 10 6 ≠ 0#6) ∧
    ((0x200000FF#32 : Word).extractLsb' 28 4 = 0x2#4 ∧ (0x200000FF#32 : Word).extractLsb' 8 20 = 0#20) ∧
    ((0x3000FFFF#32 : Word).extractLsb' 28 4 = 0x3#4 ∧ (0x3000FFFF#32 : Word).extractLsb' 16 12 = 0#12) ∧
    (0x4FFFFFFF#32 : Word).extractLsb' 28 4 = 0x4#4 := by
  decide

theorem witness_EveryCommandIsAnswered : (stateAt looping []).clocksReady = true := by decide

theorem witness_EveryStepCompletes : State.reset.clocksReady = true ∧ (stateAt looping []).clocksReady = true := by decide

/-- Both clauses at the boundary. -/
theorem witness_SetDutyWritesOrRejects :
    (stateAt looping []).clocksReady = true ∧ (65535#28 : BitVec 28).toNat ≤ 65535 ∧
    65535 < (65536#28 : BitVec 28).toNat ∧ 65535 < (268435455#28 : BitVec 28).toNat := by
  decide

theorem witness_AdcCfgConfiguresOrRejects_accepts :
    let s := stateAt timed []
    s.clocksReady = true ∧ AdcCtrl.pwr s.regs.adcCtrl = 0#1 ∧
    ([(0#8, 0#1, 0#8), (5#8, 0#1, 32#8), (5#8, 1#1, 4#8), (0#8, 1#1, 8#8), (3#8, 1#1, 16#8), (5#8, 1#1, 32#8)] :
      List (BitVec 8 × Bit × BitVec 8)).all
        (fun v => decide (v.1.toNat ≤ 5 ∧ v.2.2.toNat ∈ [0, 4, 8, 16, 32] ∧ ¬ (v.2.1 = 1#1 ∧ v.2.2 = 0#8))) = true := by
  decide

theorem witness_AdcCfgConfiguresOrRejects_rejects :
    AdcCtrl.pwr (stateAt configured []).regs.adcCtrl = 1#1 ∧ (stateAt configured []).clocksReady = true ∧
    AdcCtrl.pwr (stateAt timed []).regs.adcCtrl = 0#1 ∧ (stateAt timed []).clocksReady = true ∧
    5 < (6#8 : BitVec 8).toNat ∧ 5 < (255#8 : BitVec 8).toNat ∧ (5#8 : BitVec 8).toNat ≤ 5 ∧
    (1#8 : BitVec 8).toNat ∉ [0, 4, 8, 16, 32] ∧ (33#8 : BitVec 8).toNat ∉ [0, 4, 8, 16, 32] ∧
    (0#8 : BitVec 8).toNat ∈ [0, 4, 8, 16, 32] := by
  decide

theorem witness_AdcStartTriggersOrRejects_accepts :
    let five : Regs := { configured with adcCtrl := 0xA1F#12, pinAnalog := 0b100000#6 }
    (stateAt configured []).clocksReady = true ∧ AdcCtrl.pwr configured.adcCtrl = 1#1 ∧
    (0#8 : BitVec 8).toNat ≤ 5 ∧ (0#8 : BitVec 8).toNat = (AdcCtrl.ch configured.adcCtrl).toNat ∧
    (stateAt five []).clocksReady = true ∧ AdcCtrl.pwr five.adcCtrl = 1#1 ∧
    (5#8 : BitVec 8).toNat ≤ 5 ∧ (5#8 : BitVec 8).toNat = (AdcCtrl.ch five.adcCtrl).toNat := by
  decide

theorem witness_AdcStartTriggersOrRejects_rejects :
    AdcCtrl.pwr (stateAt timed []).regs.adcCtrl = 0#1 ∧ (stateAt timed []).clocksReady = true ∧
    AdcCtrl.pwr (stateAt configured []).regs.adcCtrl = 1#1 ∧ (stateAt configured []).clocksReady = true ∧
    5 < (6#8 : BitVec 8).toNat ∧
    (5#8 : BitVec 8).toNat ≤ 5 ∧ (5#8 : BitVec 8).toNat ≠ (AdcCtrl.ch configured.adcCtrl).toNat := by
  decide

theorem witness_PwmCfgConfiguresOrRejects_accepts :
    (stateAt sampling []).clocksReady = true ∧ PwmCtrl.run (stateAt sampling []).regs.pwmCtrl = 0#1 ∧
    (1#16 : Half) ≠ 0#16 ∧ (65535#16 : Half) ≠ 0#16 := by
  decide

theorem witness_PwmCfgConfiguresOrRejects_rejects :
    (stateAt timed []).clocksReady = true ∧ PwmCtrl.run (stateAt timed []).regs.pwmCtrl = 1#1 ∧
    (stateAt sampling []).clocksReady = true ∧ PwmCtrl.run (stateAt sampling []).regs.pwmCtrl = 0#1 := by
  decide

/-- A rejected command and an illegal word. -/
theorem witness_RejectedStepChangesNothing :
    (∃ t, (stateAt sampling [.host 0x30000000#32]).nextEvent = .host 0x30000000#32 ∧
      step (stateAt sampling [.host 0x30000000#32]) = .next t ∧ t.rsp ≠ some .ok) ∧
    (∃ t, (stateAt sampling [.host 0xFFFFFFFF#32]).nextEvent = .host 0xFFFFFFFF#32 ∧
      step (stateAt sampling [.host 0xFFFFFFFF#32]) = .next t ∧ t.rsp ≠ some .ok) ∧
    ∃ t, exec (.pwmCfg 0#16) (stateAt sampling []) = .next t ∧ t.rsp ≠ some .ok :=
  ⟨⟨_, rfl, rfl, by decide⟩, ⟨_, rfl, rfl, by decide⟩, ⟨_, rfl, by decide⟩⟩

/-- Each command has a next state from some state, and leaves another `PIN_ANALOG` bit than its own to compare. -/
theorem witness_HostCommandFrames :
    (∃ t, exec .nop (stateAt looping []) = .next t) ∧
    (∃ t, exec (.adcCfg 2#8 1#1 1#1 32#8) (stateAt timed []) = .next t ∧ 3 ≠ (2#8 : BitVec 8).toNat) ∧
    (∃ t, exec (.adcStart 0#8) (stateAt looping []) = .next t) ∧
    (∃ t, exec (.pwmCfg 256#16) (stateAt sampling []) = .next t) ∧
    (∃ t, exec (.pwmSetDuty 65536#28) (stateAt looping []) = .next t) :=
  ⟨⟨_, rfl⟩, ⟨_, rfl, by decide⟩, ⟨_, rfl⟩, ⟨_, rfl⟩, ⟨_, rfl⟩⟩

theorem witness_AcceptedInSequenceOnly :
    (∃ t, exec (.adcCfg 5#8 0#1 0#1 0#8) (stateAt timed []) = .next t ∧ t.rsp = some .ok) ∧
    (∃ t, exec (.adcStart 0#8) (stateAt configured []) = .next t ∧ t.rsp = some .ok) ∧
    (∃ t, exec (.pwmCfg 65535#16) (stateAt sampling []) = .next t ∧ t.rsp = some .ok) :=
  ⟨⟨_, rfl, rfl⟩, ⟨_, rfl, rfl⟩, ⟨_, rfl, rfl⟩⟩

theorem witness_StepRunsDecodedCommand :
    (stateAt sampling [.host 0x30000100#32]).nextEvent = .host 0x30000100#32 ∧
    decode 0x30000100#32 = .ok (.pwmCfg 256#16) := by
  decide

/-- One enabled step and one that is not. -/
theorem witness_StepRunsAgentStep :
    (stateAt looping [.internal .loopSnap]).clocksReady = true ∧
    (stateAt looping [.internal .loopSnap]).nextEvent = .internal .loopSnap ∧
    internalStep .loopSnap looping = some { looping with snap := 0xFFFF#16, lphase := 1#2 } ∧
    (stateAt looping [.internal .loopMul]).nextEvent = .internal .loopMul ∧ internalStep .loopMul looping = none := by
  decide

theorem witness_NextStepIsScheduledOrFree :
    (stateAt looping [.internal .pwmTick, .internal .reset]).sched = .internal .pwmTick :: [.internal .reset] ∧
    State.reset.sched = [] := by
  decide

theorem witness_WithoutClocksEveryStepIsRefused : ({ State.reset with clocksReady := false } : State).clocksReady = false := by
  decide

theorem witness_ResetClearsEveryRegister :
    (stateAt transferring [.internal .reset]).clocksReady = true ∧
    (stateAt transferring [.internal .reset]).nextEvent = .internal .reset := by
  decide

theorem witness_CompletionDeliversResult : transferring.conv = 1#1 ∧ transferring.coco = 1#1 ∧ Regs.reset.conv = 0#1 := by
  decide

/-- Served while idle, served while a transfer is in flight, and not requested. -/
theorem witness_HandlerPublishesResult :
    let idle : Regs := { sampling with result := 0xABCD#16, coco := 1#1, pendV := 1#1 }
    (idle.coco = 1#1 ∧ AdcCtrl.ien idle.adcCtrl = 1#1 ∧ idle.irqEn = 1#1 ∧ idle.req = idle.ackS) ∧
    (transferring.coco = 1#1 ∧ AdcCtrl.ien transferring.adcCtrl = 1#1 ∧ transferring.irqEn = 1#1 ∧
      transferring.req ≠ transferring.ackS) ∧
    ¬ (sampling.coco = 1#1 ∧ AdcCtrl.ien sampling.adcCtrl = 1#1 ∧ sampling.irqEn = 1#1) := by
  decide

theorem witness_HandoffStepsMoveTheValue :
    let waiting : Regs := { sampling with pend := 0x4444#16, pendV := 1#1 }
    (waiting.req = waiting.ackS ∧ waiting.pendV = 1#1) ∧ ¬ (transferring.req = transferring.ackS ∧ transferring.pendV = 1#1) ∧
    transferring.reqM ≠ transferring.req ∧ sampling.reqM = sampling.req ∧
    ({ transferring with reqM := 1#1 } : Regs).reqM ≠ transferring.ack ∧ sampling.reqM = sampling.ack ∧
    sampling.ackS ≠ ({ sampling with ack := 1#1 } : Regs).ack ∧ sampling.ackS = sampling.ack := by
  decide

theorem witness_HandoffStepsMoveTheValue_idle_again :
    (let r : Regs := { sampling with hold := 7#16, sample := 7#16, req := 1#1, reqM := 1#1, ack := 1#1 }
     HandoffInv r ∧ r.ackS ≠ r.ack) ∧
    (let r : Regs := { sampling with result := 7#16, coco := 1#1, pendV := 1#1 }
     r.req = r.ackS ∧ irq r = true) :=
  ⟨⟨by unfold HandoffInv; decide, by decide⟩, by decide⟩

theorem witness_HandlerTouchesOnlyTheSendingSide :
    ∃ t, internalStep .irqService transferring = some t ∧ t ≠ transferring :=
  ⟨_, rfl, by decide⟩

/-- In flight, idle, and idle again with a value waiting; the last two make a launch enabled or not. -/
theorem witness_OneHandoffStepIsEnabled :
    HandoffInv transferring ∧ HandoffInv Regs.reset ∧
    HandoffInv { looping with hold := 0xFFFF#16, req := 1#1, reqM := 1#1, ack := 1#1, ackS := 1#1, pendV := 1#1 } := by
  unfold HandoffInv
  decide

theorem witness_CapturedIsSublistOfPublished :
    HandoffInv transferring ∧ (stateAt transferring []).clocksReady = true ∧
    seenIn capturesNext 2 (stateAt transferring [.internal .cdcSyncReq, .internal .cdcCapture]) = [0xABCD#16] :=
  ⟨witness_OneHandoffStepIsEnabled.1, rfl, rfl⟩

theorem witness_StepKeepsHandoffInv :
    HandoffInv transferring ∧
    (∃ t, step (stateAt transferring [.internal .cdcSyncReq]) = .next t ∧ t.regs ≠ transferring) ∧
    (∃ t, step (stateAt transferring [.internal .reset]) = .next t) :=
  ⟨witness_OneHandoffStepIsEnabled.1, ⟨_, rfl, by decide⟩, ⟨_, rfl⟩⟩

theorem witness_HoldIsStableInFlight :
    (HandoffInv sampling ∧ sampling.req = sampling.ackS ∧
      ∃ t, step (stateAt sampling [.internal (.convComplete 7#16)]) = .next t) ∧
    HandoffInv { transferring with reqM := 1#1 } ∧ ({ transferring with reqM := 1#1 } : Regs).req ≠ transferring.ackS ∧
    (stateAt { transferring with reqM := 1#1 } [.internal .irqService]).nextEvent ≠ .internal .reset ∧
    ∃ t, step (stateAt { transferring with reqM := 1#1 } [.internal .irqService]) = .next t :=
  ⟨⟨by unfold HandoffInv; decide, by decide, _, rfl⟩, by unfold HandoffInv; decide, by decide, by decide, _, rfl⟩

theorem witness_PublishedIsSublistOfCompleted :
    (stateAt transferring []).clocksReady = true ∧
    seenIn publishesNext 1 (stateAt transferring [.internal .irqService]) = [0x5678#16] :=
  ⟨rfl, rfl⟩

theorem witness_SampleIsResetOrPublished :
    HandoffInv transferring ∧ (stateAt transferring []).clocksReady = true ∧
    ∃ t, runSteps 2 (stateAt transferring [.internal .cdcSyncReq, .internal .cdcCapture]) = .next t ∧
      t.regs.sample = 0xABCD#16 :=
  ⟨witness_OneHandoffStepIsEnabled.1, rfl, _, rfl, rfl⟩

theorem witness_HandoffDeliversTheLastValue :
    let s := stateAt transferring
      [.internal .cdcSyncReq, .internal .cdcCapture, .internal .cdcSyncAck, .internal .cdcRelaunch, .internal .cdcSyncReq,
        .internal .cdcCapture, .internal .cdcSyncAck]
    s.clocksReady = true ∧ HandoffInv s.regs ∧
    s.sched = [.internal .cdcSyncReq, .internal .cdcCapture, .internal .cdcSyncAck, .internal .cdcRelaunch,
      .internal .cdcSyncReq, .internal .cdcCapture, .internal .cdcSyncAck] ++ [] ∧
    newestPublished s.regs = 0x1234#16 :=
  ⟨rfl, witness_OneHandoffStepIsEnabled.1, rfl, rfl⟩

theorem witness_PromptHandoffIsTheSoftwareCell :
    let s := stateAt { sampling with pend := 0x1111#16, pendV := 1#1 }
      [.internal (.convComplete 0x8000#16), .internal .irqService, .internal .cdcSyncReq, .internal .cdcCapture,
        .internal .cdcSyncAck]
    s.clocksReady = true ∧ HandoffInv s.regs ∧ cdcIdle s.regs = true ∧ s.regs.conv = 1#1 ∧
    AdcCtrl.ien s.regs.adcCtrl = 1#1 ∧ s.regs.irqEn = 1#1 ∧
    s.sched = [.internal (.convComplete 0x8000#16), .internal .irqService, .internal .cdcSyncReq, .internal .cdcCapture,
      .internal .cdcSyncAck] ++ [] :=
  ⟨rfl, by unfold HandoffInv; decide, by decide, by decide, by decide, by decide, rfl⟩

theorem witness_ScaleLaws : (0xFFFE#16 : Half) ≤ 0xFFFF#16 ∧ (0#16 : Half) ≤ 0xFFFF#16 := by decide

theorem witness_LoopStepsRunInOrder :
    running looping = true ∧ looping.lphase = 0#2 ∧
    running { looping with lphase := 1#2 } = true ∧ running { looping with lphase := 2#2 } = true ∧
    running applying = true ∧ applying.lphase = 3#2 := by
  decide

theorem witness_StepKeepsLoopInv :
    (TimerInv applying ∧ LoopInv applying ∧
      ∃ t, step (stateAt applying [.internal .loopApply]) = .next t ∧ t.regs.cmp = 0x0100#16) ∧
    (TimerInv sampling ∧ LoopInv sampling ∧
      ∃ t, step (stateAt sampling [.host 0x30000100#32]) = .next t ∧ running t.regs = true) :=
  ⟨⟨by unfold TimerInv; decide, by unfold LoopInv; decide, _, rfl, rfl⟩,
    ⟨by unfold TimerInv; decide, by unfold LoopInv; decide, _, rfl, rfl⟩⟩

theorem witness_LoopAppliesScaleOfItsSnapshot :
    LoopInv applying ∧ ∃ t, internalStep .loopApply applying = some t ∧ t.cmp = 0x0100#16 :=
  ⟨by unfold LoopInv; decide, _, rfl, rfl⟩

theorem witness_IterationAppliesScale :
    let s := stateAt looping [.internal .loopSnap, .internal .loopMul, .internal .loopDiv, .internal .loopApply]
    s.clocksReady = true ∧ running s.regs = true ∧ s.regs.lphase = 0#2 ∧
    s.sched = [.internal .loopSnap, .internal .loopMul, .internal .loopDiv, .internal .loopApply] ++ [] := by
  decide

theorem witness_TickCountsOrWraps :
    (PwmCtrl.run timed4.pwmCtrl = 1#1 ∧ ({ timed4 with cnt := 3#16 } : Regs).cnt = timed4.mod) ∧
    (PwmCtrl.run timed4.pwmCtrl = 1#1 ∧ timed4.cnt ≠ timed4.mod) ∧ PwmCtrl.run sampling.pwmCtrl = 0#1 := by
  decide

theorem witness_StepKeepsTimerInv :
    TimerInv { timed4 with cnt := 3#16 } ∧
    ∃ t, step (stateAt { timed4 with cnt := 3#16 } [.internal .pwmTick]) = .next t ∧ t.regs.cnt = 0#16 :=
  ⟨by unfold TimerInv; decide, _, rfl, rfl⟩

theorem witness_CounterCountsModuloPeriod :
    let s := stateAt { timed4 with cnt := 3#16 } (List.replicate 5 (.internal .pwmTick) ++ [])
    s.clocksReady = true ∧ TimerInv s.regs ∧ PwmCtrl.run s.regs.pwmCtrl = 1#1 ∧
    s.sched = List.replicate 5 (.internal .pwmTick) ++ [] :=
  ⟨rfl, by unfold TimerInv; decide, by decide, rfl⟩

theorem witness_OutputCycleHasDutyActiveCounts :
    (TimerInv { timed4 with cmp := 5#16, cnt := 3#16 } ∧ PwmCtrl.run timed4.pwmCtrl = 1#1) ∧
    let s := stateAt { timed4 with cmp := 3#16 } (List.replicate timed4.period.toNat (.internal .pwmTick) ++ [])
    s.clocksReady = true ∧ TimerInv s.regs ∧ PwmCtrl.run s.regs.pwmCtrl = 1#1 ∧ s.regs.cnt = 0#16 ∧
    s.sched = List.replicate s.regs.period.toNat (.internal .pwmTick) ++ [] ∧ 3 < s.regs.period.toNat :=
  ⟨⟨by unfold TimerInv; decide, by decide⟩, rfl, by unfold TimerInv; decide, by decide, rfl, rfl, by decide⟩

theorem witness_OutputLevel :
    (TimerInv { timed4 with cmp := 4#16, cnt := 3#16 } ∧ PwmCtrl.run timed4.pwmCtrl = 1#1 ∧ timed4.period ≤ 4#16) ∧
    timed4.cmp = 0#16 ∧ PwmCtrl.run sampling.pwmCtrl = 0#1 ∧ sampling.pinPwm = 0#1 :=
  ⟨⟨by unfold TimerInv; decide, by decide, by decide⟩, by decide, by decide, by decide⟩

theorem witness_DutyWriteActsAtOnce :
    (stateAt timed4 []).clocksReady = true ∧ (65535#28 : BitVec 28).toNat ≤ 65535 ∧
    PwmCtrl.run (stateAt timed4 []).regs.pwmCtrl = 1#1 ∧ (stateAt timed4 []).regs.pinPwm = 1#1 := by
  decide

theorem witness_StepKeepsSamplerInv :
    (SamplerInv Regs.reset ∧ ∃ t, step (stateAt Regs.reset [.host 0x10000005#32]) = .next t ∧ t.rsp = some .ok) ∧
    (SamplerInv transferring ∧ ∃ t, step (stateAt transferring [.internal .irqService]) = .next t ∧ t.regs.coco = 0#1) :=
  ⟨⟨by unfold SamplerInv; decide, _, rfl, rfl⟩, ⟨by unfold SamplerInv; decide, _, rfl, rfl⟩⟩

theorem witness_PendingCompletionRequestsInterrupt : SamplerInv transferring ∧ transferring.coco = 1#1 :=
  ⟨by unfold SamplerInv; decide, by decide⟩

theorem witness_ConfigurationLastsUntilReset :
    (∃ t, step (stateAt transferring [.host 0x30000064#32]) = .next t) ∧
    (stateAt transferring [.host 0x30000064#32]).nextEvent ≠ .internal .reset ∧
    AdcCtrl.pwr transferring.adcCtrl = 1#1 ∧ transferring.irqEn = 1#1 ∧ transferring.started = 1#1 ∧
    PwmCtrl.run transferring.pwmCtrl = 1#1 :=
  ⟨⟨_, rfl⟩, by decide, by decide, by decide, by decide, by decide⟩

/-- A loop that runs, before another step and before `RESET`, and one that starts with the last of the three commands. -/
theorem witness_RunningRisesOnceAndStays :
    (∃ t, step (stateAt looping [.internal .pwmTick]) = .next t ∧ running looping = true ∧
      (stateAt looping [.internal .pwmTick]).nextEvent ≠ .internal .reset) ∧
    (∃ t, step (stateAt looping [.internal .reset]) = .next t ∧
      (stateAt looping [.internal .reset]).nextEvent = .internal .reset) ∧
    ∃ t, step (stateAt sampling [.host 0x30000100#32]) = .next t ∧ running sampling = false ∧ running t.regs = true :=
  ⟨⟨_, rfl, by decide, by decide⟩, ⟨_, rfl, rfl⟩, ⟨_, rfl, by decide, by decide⟩⟩

theorem witness_RegistersChangeOnlyByTheirWriters :
    (∃ t, step (stateAt timed [.internal .pwmTick]) = .next t ∧ RegName.cnt.val t.regs ≠ RegName.cnt.val timed) ∧
    (∃ t, step (stateAt timed [.internal .reset]) = .next t ∧ RegName.period.val t.regs ≠ RegName.period.val timed) :=
  ⟨⟨_, rfl, by decide⟩, ⟨_, rfl, by decide⟩⟩

/-- Two states that agree on the main domain and differ outside it, and one step of both. -/
theorem witness_MainDomainSeesOnlyTheHandoff :
    let s := stateAt looping [.internal .loopSnap]
    let t := stateAt { looping with hold := 7#16, pend := 9#16, cnt := 3#16 } [.internal .loopSnap]
    s.nextEvent = t.nextEvent ∧ s.nextEvent ≠ .internal .cdcCapture ∧ s.nextEvent ≠ .internal .cdcSyncReq ∧
    (∀ n : RegName, n.domain = .mainM → n.val s.regs = n.val t.regs) ∧
    (∃ s', step s = .next s') ∧ ∃ t', step t = .next t' :=
  ⟨rfl, by decide, by decide, by rintro n hn; cases n <;> first | rfl | (cases hn), ⟨_, rfl⟩, ⟨_, rfl⟩⟩

/-! ### Runs -/

/-- A refused step shows nothing to an observer (R11). -/
theorem test_seenIn_refused :
    seenIn capturesNext 1
      { stateAt { transferring with reqM := 1#1 } [.internal .cdcCapture] with clocksReady := false } = [] := rfl

/-- Registers with the result 0x1234 completed and not yet served, the timer not configured. -/
def served : Regs := { sampling with result := 0x1234#16, coco := 1#1 }

/-- The registers of a run in which the result 0x1234 is served, handed over and captured, and nothing else happens. -/
def deliveryRegs : Nat → Regs
  | 0 => served
  | 1 => { served with coco := 0#1, hold := 0x1234#16, req := 1#1 }
  | 2 => { served with coco := 0#1, hold := 0x1234#16, req := 1#1, reqM := 1#1 }
  | 3 => { served with coco := 0#1, hold := 0x1234#16, req := 1#1, reqM := 1#1, sample := 0x1234#16, ack := 1#1 }
  | _ => { served with
      coco := 0#1, hold := 0x1234#16, req := 1#1, reqM := 1#1, sample := 0x1234#16, ack := 1#1, ackS := 1#1 }

/-- The steps of that run: the handler, the handoff, then `NOP` for ever. -/
def deliveryChoice : Nat → Event
  | 0 => .internal .irqService
  | 1 => .internal .cdcSyncReq
  | 2 => .internal .cdcCapture
  | 3 => .internal .cdcSyncAck
  | _ => .host 0x00000000#32

/-- The states of that run. -/
def delivery (n : Nat) : State :=
  { stateAt (deliveryRegs n) [] with turn := n, rsp := if n < 5 then none else some .ok }

theorem delivery_isRun : IsRun delivery deliveryChoice
  | 0 => rfl
  | 1 => rfl
  | 2 => rfl
  | 3 => rfl
  | n + 4 => by
    have later : ¬ n + 5 < 5 := by omega
    simp only [delivery, later, if_false]
    rfl

/-- Of the steps that are owed, none is enabled for ever: after the acknowledge none is enabled at all. -/
theorem delivery_weaklyFair : WeaklyFair delivery deliveryChoice := by
  intro a ha n stays
  have still := stays (n + 4) (by omega)
  have : enabled a (deliveryRegs 4) = true := still
  cases a <;> first | (cases ha; done) | exact absurd this (by decide)

/-- Also the first clause of `FairAgentsKeepWorking`: the interrupt is requested at 0, and `RESET` is never taken. -/
theorem witness_LastPublishedValueArrives :
    IsRun delivery deliveryChoice ∧ WeaklyFair delivery deliveryChoice ∧ HandoffInv (delivery 1).regs ∧
    (∀ m, 1 ≤ m → deliveryChoice m ≠ .internal .reset ∧ publishesNext ((delivery m).choose (deliveryChoice m)) = []) ∧
    newestPublished (delivery 1).regs = 0x1234#16 ∧ (delivery 1).regs.sample = 0x0000#16 ∧
    irq (delivery 0).regs = true := by
  refine ⟨delivery_isRun, delivery_weaklyFair, by unfold HandoffInv; decide, ?_, rfl, rfl, by decide⟩
  rintro (_ | _ | _ | _ | m) hm
  · omega
  all_goals exact ⟨by simp [deliveryChoice], rfl⟩

/-- The registers of a loop that runs with the period 1 and the sample 0xFFFF, at the given phase and duty. -/
def cyclingRegs (phase : BitVec 2) (duty : Half) : Regs :=
  { looping with
    period := 1#16, mod := 0#16, lphase := phase, snap := 0xFFFF#16, prod := 0x0000FFFF#32, dutyq := 1#16, cmp := duty,
    hold := 0xFFFF#16 }

/-- Its steps: the four steps of the loop and a tick, over and over. -/
def cyclingChoice (n : Nat) : Event :=
  match n % 5 with
  | 0 => .internal .loopSnap
  | 1 => .internal .loopMul
  | 2 => .internal .loopDiv
  | 3 => .internal .loopApply
  | _ => .internal .pwmTick

/-- The phase at each instant of a round. -/
def cyclingPhase (i : Nat) : BitVec 2 :=
  match i with
  | 1 => 1#2
  | 2 => 2#2
  | 3 => 3#2
  | _ => 0#2

/-- Its states: the duty is 0 until the first `LOOP_APPLY`. -/
def cycling (n : Nat) : State :=
  { stateAt (cyclingRegs (cyclingPhase (n % 5)) (if n < 4 then 0#16 else 1#16)) [] with turn := n }

/-- An enabled step, chosen in one state of a run. -/
theorem step_choose_internal {s : State} {a : InternalStep} {r : Regs} (ready : s.clocksReady = true)
    (h : internalStep a s.regs = some r) : step (s.choose (.internal a)) = .next { s.take with regs := r } := by
  have stepped : step (s.choose (.internal a)) = runInternal a s.take := rfl
  have taken : internalStep a s.take.regs = some r := h
  rw [stepped]
  simp only [runInternal, taken]
  exact if_pos ready

theorem cycling_isRun : IsRun cycling cyclingChoice := by
  intro n
  by_cases first : n < 4
  · interval_cases n <;> rfl
  have second : ¬ n + 1 < 4 := by omega
  have h : (n % 5 = 0 ∧ (n + 1) % 5 = 1) ∨ (n % 5 = 1 ∧ (n + 1) % 5 = 2) ∨ (n % 5 = 2 ∧ (n + 1) % 5 = 3) ∨
      (n % 5 = 3 ∧ (n + 1) % 5 = 4) ∨ (n % 5 = 4 ∧ (n + 1) % 5 = 0) := by omega
  rcases h with ⟨h, h'⟩ | ⟨h, h'⟩ | ⟨h, h'⟩ | ⟨h, h'⟩ | ⟨h, h'⟩ <;>
    simp only [cycling, cyclingChoice, stateAt, h, h', first, second, if_false] <;>
    exact step_choose_internal rfl (by dsimp only; decide)

/-- Every step of the loop and the tick is taken again and again, and no other step that is owed is ever enabled. -/
theorem cycling_weaklyFair : WeaklyFair cycling cyclingChoice := by
  intro a ha n stays
  have again (i : Nat) (hi : i < 5) : (n * 5 + i) % 5 = i := by omega
  have off := stays (n * 5 + 5) (by omega)
  have off : enabled a (cyclingRegs 0#2 1#16) = true := by
    have late : ¬ n * 5 + 5 < 4 := by omega
    have zero : (n * 5 + 5) % 5 = 0 := by omega
    simp only [cycling, stateAt, late, zero, if_false] at off
    exact off
  cases a with
  | loopSnap => exact ⟨n * 5 + 0, by omega, by simp only [cyclingChoice, again 0 (by omega)]⟩
  | loopMul => exact ⟨n * 5 + 1, by omega, by simp only [cyclingChoice, again 1 (by omega)]⟩
  | loopDiv => exact ⟨n * 5 + 2, by omega, by simp only [cyclingChoice, again 2 (by omega)]⟩
  | loopApply => exact ⟨n * 5 + 3, by omega, by simp only [cyclingChoice, again 3 (by omega)]⟩
  | pwmTick => exact ⟨n * 5 + 4, by omega, by simp only [cyclingChoice, again 4 (by omega)]⟩
  | _ => first | (cases ha; done) | exact absurd off (by decide)

theorem cyclingChoice_quiet (m : Nat) :
    cyclingChoice m ≠ .internal .reset ∧ (cyclingChoice m).stepKind ≠ .pwmSetDuty ∧
      publishesNext ((cycling m).choose (cyclingChoice m)) = [] := by
  unfold cyclingChoice
  split <;> exact ⟨by decide, by decide, rfl⟩

theorem witness_FairAgentsKeepWorking :
    IsRun cycling cyclingChoice ∧ WeaklyFair cycling cyclingChoice ∧ (∀ m, 0 ≤ m → cyclingChoice m ≠ .internal .reset) ∧
    running (cycling 0).regs = true ∧ PwmCtrl.run (cycling 0).regs.pwmCtrl = 1#1 :=
  ⟨cycling_isRun, cycling_weaklyFair, fun m _ => (cyclingChoice_quiet m).1, by decide, by decide⟩

theorem witness_EventuallyCmpReflectsTheLastSample :
    IsRun cycling cyclingChoice ∧ WeaklyFair cycling cyclingChoice ∧ HandoffInv (cycling 0).regs ∧
    running (cycling 0).regs = true ∧
    (∀ m, 0 ≤ m → cyclingChoice m ≠ .internal .reset ∧ (cyclingChoice m).stepKind ≠ .pwmSetDuty ∧
      publishesNext ((cycling m).choose (cyclingChoice m)) = []) ∧
    (cycling 0).regs.cmp = 0#16 :=
  ⟨cycling_isRun, cycling_weaklyFair, by unfold HandoffInv; decide, by decide, fun m _ => cyclingChoice_quiet m, rfl⟩

theorem witness_EveryScheduleIsARun : State.reset.clocksReady = true ∧ (stateAt transferring []).clocksReady = true := by decide

theorem witness_FairAndUnfairRunsExist :
    (stateAt transferring []).clocksReady = true ∧ InternalStep.cdcSyncReq.agent.isFair = true ∧
    enabled .cdcSyncReq (stateAt transferring []).regs = true := by
  decide

theorem witness_StepKeepsCmpWithinPeriod :
    LoopInv applying ∧ applying.cmp ≤ applying.period ∧
    (stateAt applying [.internal .loopApply]).nextEvent.stepKind ≠ .pwmSetDuty ∧
    ∃ t, step (stateAt applying [.internal .loopApply]) = .next t ∧ t.regs.cmp = t.regs.period :=
  ⟨by unfold LoopInv; decide, by decide, by decide, _, rfl, rfl⟩

end Sys2Proof.Tests
end

section
/-! PROOFS. One step of the machine (spec/00_scope.md R5, R6, R11): every command and every step ends in `finish`, so it
completes under the launch premise, a command with a code R220 gives it, and is refused by name without it. -/

namespace Sys2Proof.Machine

/-! The commands. -/

/-- The codes R220 gives a command. -/
def responsesOf : Mnemonic → List Response
  | .nop => [.ok]
  | .adcCfg => [.ok, .rejChannel, .rejAvg, .rejSeq]
  | .adcStart => [.ok, .rejChannel, .rejSeq]
  | .pwmCfg => [.ok, .rejPeriod, .rejSeq]
  | .pwmSetDuty => [.ok, .errDutyRange]

/-- Whether accepted or rejected, a command ends in `finish` with a code R220 gives it. -/
theorem exec_eq_finish (i : Instr) (s : State) :
    ∃ c ∈ responsesOf i.mnemonic, ∃ r, exec i s = finish (some c) r s := by
  cases i with
  | nop => exact ⟨.ok, by decide, s.regs, rfl⟩
  | adcCfg ch cont avg count =>
    change ∃ c ∈ responsesOf .adcCfg, ∃ r, execAdcCfg ch cont avg count s = finish (some c) r s
    unfold execAdcCfg
    split
    · exact ⟨.rejSeq, by decide, s.regs, rfl⟩
    split
    · exact ⟨.rejChannel, by decide, s.regs, rfl⟩
    split
    · exact ⟨.rejAvg, by decide, s.regs, rfl⟩
    · exact ⟨.ok, by decide, _, rfl⟩
  | adcStart ch =>
    change ∃ c ∈ responsesOf .adcStart, ∃ r, execAdcStart ch s = finish (some c) r s
    unfold execAdcStart
    split
    · exact ⟨.rejSeq, by decide, s.regs, rfl⟩
    split
    · exact ⟨.rejChannel, by decide, s.regs, rfl⟩
    split
    · exact ⟨.rejSeq, by decide, s.regs, rfl⟩
    · exact ⟨.ok, by decide, _, rfl⟩
  | pwmCfg period =>
    change ∃ c ∈ responsesOf .pwmCfg, ∃ r, execPwmCfg period s = finish (some c) r s
    unfold execPwmCfg
    split
    · exact ⟨.rejSeq, by decide, s.regs, rfl⟩
    split
    · exact ⟨.rejPeriod, by decide, s.regs, rfl⟩
    · exact ⟨.ok, by decide, _, rfl⟩
  | pwmSetDuty duty =>
    change ∃ c ∈ responsesOf .pwmSetDuty, ∃ r, execPwmSetDuty duty s = finish (some c) r s
    unfold execPwmSetDuty
    split
    · exact ⟨.errDutyRange, by decide, s.regs, rfl⟩
    · exact ⟨.ok, by decide, _, rfl⟩

/-- Settles O12: `finish` answers a next state under the launch premise. -/
theorem everyCommandIsAnswered : Obligations.EveryCommandIsAnswered := by
  intro i s ready
  obtain ⟨c, hc, r, hx⟩ := exec_eq_finish i s
  refine ⟨_, c, hx.trans (finish_of_ready ready _ _), rfl, ?_⟩
  cases i <;> exact hc

/-! The step, by what goes next. -/

theorem step_of_decodes {s : State} {cmd : Word} {i : Instr} (hs : s.nextEvent = .host cmd) (hd : decode cmd = .ok i) :
    step s = exec i s.take := by
  simp only [step, hs, hd]

theorem step_of_illegal {s : State} {cmd : Word} {e : DecodeError} (hs : s.nextEvent = .host cmd)
    (hd : decode cmd = .error e) : step s = illegalWord s.take := by
  simp only [step, hs, hd]

theorem step_of_internal {s : State} {a : InternalStep} (hs : s.nextEvent = .internal a) :
    step s = runInternal a s.take := by
  simp only [step, hs]

/-- Another agent's step leaves the registers it gives, or where it is not enabled the registers as they were. -/
theorem runInternal_eq_finish (a : InternalStep) (s : State) :
    runInternal a s = finish none ((internalStep a s.regs).getD s.regs) s := by
  unfold runInternal
  cases internalStep a s.regs <;> rfl

/-- Whatever goes next, the step ends in `finish`. -/
theorem step_eq_finish (s : State) : ∃ c r, step s = finish c r s.take := by
  cases hs : s.nextEvent with
  | host cmd =>
    cases hd : decode cmd with
    | ok i =>
      obtain ⟨c, _, r, hx⟩ := exec_eq_finish i s.take
      exact ⟨some c, r, (step_of_decodes hs hd).trans hx⟩
    | error e => exact ⟨some .errIllegal, s.regs, step_of_illegal hs hd⟩
  | internal a => exact ⟨none, _, (step_of_internal hs).trans (runInternal_eq_finish a s.take)⟩

/-- Under the launch premise every step completes, and the premise still holds after it. -/
theorem step_completes {s : State} (ready : s.clocksReady = true) : ∃ t, step s = .next t ∧ t.clocksReady = true := by
  obtain ⟨c, r, hx⟩ := step_eq_finish s
  exact ⟨_, hx.trans (finish_of_ready (s := s.take) ready c r), ready⟩

/-- Settles O17: the dispatch of a word that decodes. -/
theorem stepRunsDecodedCommand : Obligations.StepRunsDecodedCommand :=
  fun _ _ _ hs hd => step_of_decodes hs hd

/-- Settles O18: the step leaves the registers the agent's rule gives, or else those it found. -/
theorem stepRunsAgentStep : Obligations.StepRunsAgentStep := by
  intro s a ready hs
  have stepped : step s = .next { s.take with regs := (internalStep a s.regs).getD s.regs } :=
    (step_of_internal hs).trans ((runInternal_eq_finish a s.take).trans (finish_of_ready (s := s.take) ready _ _))
  exact ⟨fun r hr => by rw [hr] at stepped; exact stepped, fun hr => by rw [hr] at stepped; exact stepped⟩

/-- Settles O19: `nextEvent` and `take` read the schedule by its first entry. -/
theorem nextStepIsScheduledOrFree : Obligations.NextStepIsScheduledOrFree := by
  intro s e es
  constructor
  · intro h
    simp [State.nextEvent, h]
  · intro h
    simp [State.nextEvent, h]

/-- Settles O21: `finish` refuses without the launch premise, and every step ends in it. -/
theorem withoutClocksEveryStepIsRefused : Obligations.WithoutClocksEveryStepIsRefused := by
  intro s stopped
  obtain ⟨c, r, hx⟩ := step_eq_finish s
  rw [hx]
  exact if_neg (by simp [stopped])

end Sys2Proof.Machine
end

section
/-! PROOFS. Runs exist (spec/00_scope.md R6, spec/70_reset_and_hazards.md R272): every sequence of choices has a run from every
state in which the launch premise holds; a round-robin schedule is fair, and a host that presents `NOP` for ever is not. -/

namespace Sys2Proof.Machine

/-! The run of a schedule. -/

/-- A step depends on the schedule by the step that goes next and the state it leaves, and on nothing else. -/
theorem step_congr {s t : State} (next : s.nextEvent = t.nextEvent) (taken : s.take = t.take) : step s = step t := by
  simp only [step, next, taken]

/-- The state after a step, for a step that answers a next state. -/
def stateAfter (s : State) : State :=
  match step s with
  | .next t => t
  | .fault _ => s
  | .refused _ => s

theorem step_eq_next_stateAfter {s : State} (ready : s.clocksReady = true) :
    step s = .next (stateAfter s) ∧ (stateAfter s).clocksReady = true := by
  obtain ⟨t, ht, hc⟩ := step_completes ready
  have after : stateAfter s = t := by simp only [stateAfter, ht]
  rw [after]
  exact ⟨ht, hc⟩

/-- The states of the run from `s` in which the steps `ε` are chosen. -/
def runFrom (s : State) (ε : Nat → Event) : Nat → State
  | 0 => s
  | n + 1 => stateAfter ((runFrom s ε n).choose (ε n))

theorem runFrom_clocksReady {s : State} (ready : s.clocksReady = true) (ε : Nat → Event) (n : Nat) :
    (runFrom s ε n).clocksReady = true := by
  induction n with
  | zero => exact ready
  | succ n ih => exact (step_eq_next_stateAfter (s := (runFrom s ε n).choose (ε n)) ih).2

theorem isRun_runFrom {s : State} (ready : s.clocksReady = true) (ε : Nat → Event) : IsRun (runFrom s ε) ε :=
  fun n => (step_eq_next_stateAfter (s := (runFrom s ε n).choose (ε n)) (runFrom_clocksReady ready ε n)).1

/-- Settles O55: the run of a schedule is `runFrom`. -/
theorem everyScheduleIsARun : Obligations.EveryScheduleIsARun :=
  ⟨fun s e => ⟨choose_nextEvent e s, choose_regs e s, choose_take e s⟩,
    fun s => step_congr (choose_nextEvent _ s) (choose_take _ s),
    fun s ε ready => ⟨runFrom s ε, rfl, isRun_runFrom ready ε⟩⟩

/-! A fair schedule. -/

/-- The steps that are taken fairly (R6). -/
def fairSteps : List InternalStep :=
  [.irqService, .cdcRelaunch, .cdcSyncReq, .cdcCapture, .cdcSyncAck, .loopSnap, .loopMul, .loopDiv, .loopApply, .pwmTick]

theorem mem_fairSteps {a : InternalStep} (ha : a.agent.isFair = true) : a ∈ fairSteps := by
  cases a with
  | convComplete v => cases ha
  | reset => cases ha
  | _ => decide

/-- Each of the fair steps in turn, for ever. -/
def roundRobin (n : Nat) : Event :=
  .internal (fairSteps.getD (n % 10) .pwmTick)

theorem roundRobin_weaklyFair (σ : Nat → State) : WeaklyFair σ roundRobin := by
  intro a ha n _
  obtain ⟨i, hi, hget⟩ := List.getElem_of_mem (mem_fairSteps ha)
  have short : i < 10 := hi
  refine ⟨10 * n + i, by omega, ?_⟩
  have turn : (10 * n + i) % 10 = i := by omega
  rw [roundRobin, turn, List.getD_eq_getElem _ _ hi, hget]

/-! An unfair schedule. -/

/-- The host presents `NOP` (R100) for ever. -/
def onlyNop (_ : Nat) : Event :=
  .host 0x00000000#32

theorem step_nop_regs {s t : State} (hs : s.nextEvent = .host 0x00000000#32) (h : step s = .next t) : t.regs = s.regs := by
  rw [step_of_decodes hs (i := .nop) (by decide)] at h
  obtain ⟨_, rfl⟩ := accept_eq_next.1 h
  rfl

theorem runFrom_onlyNop_regs {s : State} (ready : s.clocksReady = true) (n : Nat) :
    (runFrom s onlyNop n).regs = s.regs := by
  induction n with
  | zero => rfl
  | succ n ih => exact (step_nop_regs rfl (isRun_runFrom ready onlyNop n)).trans ih

/-- A step that is owed and stays enabled because no register changes is never taken. -/
theorem not_weaklyFair_onlyNop {σ : Nat → State} {r : Regs} {a : InternalStep} (still : ∀ n, (σ n).regs = r)
    (ha : a.agent.isFair = true) (owed : enabled a r = true) : ¬ WeaklyFair σ onlyNop := by
  intro fair
  obtain ⟨m, _, taken⟩ := fair a ha 0 fun m _ => by rw [still m]; exact owed
  cases taken

/-- Settles O56: the round robin is fair, and `NOP` for ever is not where a fair agent's step is enabled. -/
theorem fairAndUnfairRunsExist : Obligations.FairAndUnfairRunsExist := by
  intro s ready
  refine ⟨⟨runFrom s roundRobin, roundRobin, rfl, isRun_runFrom ready _, roundRobin_weaklyFair _⟩, ?_⟩
  rintro ⟨a, ha, owed⟩
  have still := runFrom_onlyNop_regs ready
  exact ⟨runFrom s onlyNop, onlyNop, rfl, isRun_runFrom ready _, not_weaklyFair_onlyNop still ha owed, still⟩

end Sys2Proof.Machine
end

section
/-! PROOFS. Progress of a fair run (spec/00_scope.md R6, spec/42_scaler_and_loop.md R184, R191, spec/43_pwm_timer.md R201,
spec/60_exceptions.md R226): without `RESET` the signals `irq`, `running` and `RUN` stay until their own step is taken, and the
phase of a loop that runs moves by its own step alone. -/

namespace Sys2Proof.Machine

theorem run_configured : PwmCtrl.run PwmCtrl.configured = 1#1 := by
  decide

/-- In a run, the step of an agent that is chosen leaves the registers it gives. -/
theorem isRun_internalStep {σ : Nat → State} {ε : Nat → Event} (h : IsRun σ ε) {n : Nat} {a : InternalStep}
    (chosen : ε n = .internal a) : (σ (n + 1)).regs = (internalStep a (σ n).regs).getD (σ n).regs := by
  have stepped := h n
  rw [step_of_internal (a := a) (by simp [chosen])] at stepped
  obtain ⟨_, after⟩ := runInternal_eq_next.1 stepped
  simp [after]

theorem enabled_of_internalStep {a : InternalStep} {r t : Regs} (h : internalStep a r = some t) : enabled a r = true := by
  simp [enabled, h]

/-! What a step other than `RESET` leaves standing. -/

section
variable {e : Event} {r t : Regs} (h : RegsStep e r t) (noReset : e ≠ .internal .reset)
include h noReset

theorem irq_of_regsStep (notServed : e ≠ .internal .irqService) (requested : irq r = true) : irq t = true := by
  obtain ⟨hcoco, hien, hen⟩ := irq_iff.1 requested
  cases h with
  | irqLaunch he => exact absurd he notServed
  | irqPark he => exact absurd he notServed
  | reset he => exact absurd he noReset
  | adcCfg ch cont avg count d =>
    exact irq_iff.2 ⟨hcoco, (adcCtrl_configured_fields cont avg d (channelField ch)).2.2.2.2.1, rfl⟩
  | convComplete v => exact irq_iff.2 ⟨rfl, hien, hen⟩
  | _ => exact irq_iff.2 ⟨hcoco, hien, hen⟩

theorem run_of_regsStep (counting : PwmCtrl.run r.pwmCtrl = 1#1) : PwmCtrl.run t.pwmCtrl = 1#1 := by
  cases h with
  | pwmCfg => exact run_configured
  | reset he => exact absurd he noReset
  | _ => exact counting

theorem running_of_regsStep (looping : running r = true) : running t = true := by
  obtain ⟨hpwr, hrun, hstarted⟩ := running_iff.1 looping
  refine running_iff.2 ⟨?_, run_of_regsStep h noReset hrun, ?_⟩
  · cases h with
    | adcCfg ch cont avg count d => exact (adcCtrl_configured_fields cont avg d (channelField ch)).1
    | reset he => exact absurd he noReset
    | _ => exact hpwr
  · cases h with
    | adcStart => rfl
    | reset he => exact absurd he noReset
    | _ => exact hstarted

end

/-! The phase of the loop. -/

/-- The step of the loop that a phase selects (R185 to R189). -/
def loopStepAt (phase : BitVec 2) : InternalStep :=
  match phase.toNat with
  | 0 => .loopSnap
  | 1 => .loopMul
  | 2 => .loopDiv
  | _ => .loopApply

theorem phase_cases (phase : BitVec 2) : phase = 0#2 ∨ phase = 1#2 ∨ phase = 2#2 ∨ phase = 3#2 := by
  revert phase; decide

theorem loopStepAt_isFair (phase : BitVec 2) : (loopStepAt phase).agent.isFair = true := by
  revert phase; decide

/-- The step the phase selects is enabled while the loop runs, and moves the phase on by one. -/
theorem internalStep_loopStepAt {r : Regs} (looping : running r = true) :
    ∃ t, internalStep (loopStepAt r.lphase) r = some t ∧ t.lphase = r.lphase + 1#2 := by
  rcases phase_cases r.lphase with h | h | h | h <;> rw [h] <;>
    exact ⟨_, if_pos ⟨looping, h⟩, rfl⟩

theorem enabled_loopStepAt {r : Regs} (looping : running r = true) : enabled (loopStepAt r.lphase) r = true := by
  obtain ⟨_, ht, _⟩ := internalStep_loopStepAt looping
  exact enabled_of_internalStep ht

/-- No step but `RESET` and the one the phase selects moves the phase. -/
theorem lphase_of_regsStep {e : Event} {r t : Regs} (h : RegsStep e r t) (noReset : e ≠ .internal .reset)
    (other : e ≠ .internal (loopStepAt r.lphase)) : t.lphase = r.lphase := by
  cases h with
  | loopSnap he _ hp => exact absurd (by rw [he, hp]; rfl) other
  | loopMul he _ hp => exact absurd (by rw [he, hp]; rfl) other
  | loopDiv he _ hp => exact absurd (by rw [he, hp]; rfl) other
  | loopApply he _ hp => exact absurd (by rw [he, hp]; rfl) other
  | reset he => exact absurd he noReset
  | _ => rfl

/-! A fair run in which `RESET` is not taken from an instant on. -/

section
variable {σ : Nat → State} {ε : Nat → Event} {n : Nat} (run : IsRun σ ε) (fair : WeaklyFair σ ε)
  (noReset : ∀ m, n ≤ m → ε m ≠ .internal .reset)
include run noReset

theorem counting_from (counting : PwmCtrl.run (σ n).regs.pwmCtrl = 1#1) :
    ∀ m, n ≤ m → PwmCtrl.run (σ m).regs.pwmCtrl = 1#1 :=
  holds_from counting fun m hm => run_of_regsStep (isRun_regsStep run m) (noReset m hm)

theorem running_from (looping : running (σ n).regs = true) : ∀ m, n ≤ m → running (σ m).regs = true :=
  holds_from looping fun m hm => running_of_regsStep (isRun_regsStep run m) (noReset m hm)

include fair

theorem irqService_taken (requested : irq (σ n).regs = true) :
    ∃ m, n ≤ m ∧ ε m = .internal .irqService ∧ irq (σ m).regs = true :=
  taken_of_weaklyFair (P := fun m => irq (σ m).regs = true) fair rfl requested
    (fun _ _ hp => enabled_of_internalStep (if_pos hp))
    (fun m hm hp other => irq_of_regsStep (isRun_regsStep run m) (noReset m hm) other hp)

theorem pwmTick_taken (counting : PwmCtrl.run (σ n).regs.pwmCtrl = 1#1) {k : Nat} (hk : n ≤ k) :
    ∃ m, k ≤ m ∧ ε m = .internal .pwmTick ∧ enabled .pwmTick (σ m).regs = true := by
  have ticks : ∀ m, n ≤ m → enabled .pwmTick (σ m).regs = true := fun m hm =>
    enabled_of_internalStep (if_pos (counting_from run noReset counting m hm))
  obtain ⟨m, hm, taken⟩ := fair .pwmTick rfl k fun m hm => ticks m (hk.trans hm)
  exact ⟨m, hm, taken, ticks m (hk.trans hm)⟩

/-- The step that the phase selects is taken at that phase. -/
theorem loopStepAt_taken (looping : running (σ n).regs = true) {k : Nat} (hk : n ≤ k) :
    ∃ m, k ≤ m ∧ ε m = .internal (loopStepAt (σ k).regs.lphase) ∧ (σ m).regs.lphase = (σ k).regs.lphase := by
  have runs := running_from run noReset looping
  refine taken_of_weaklyFair (P := fun m => (σ m).regs.lphase = (σ k).regs.lphase) fair (loopStepAt_isFair _) rfl ?_ ?_
  · intro m hm hp
    rw [← hp]
    exact enabled_loopStepAt (runs m (hk.trans hm))
  · intro m hm hp other
    rw [← hp] at other ⊢
    exact lphase_of_regsStep (isRun_regsStep run m) (noReset m (hk.trans hm)) other

/-- From `d` steps of the loop before its phase 3, `LOOP_APPLY` is reached and taken. -/
theorem loopApply_taken (looping : running (σ n).regs = true) (d : Nat) {k : Nat} (hk : n ≤ k)
    (hd : (σ k).regs.lphase.toNat + d = 3) :
    ∃ m, k ≤ m ∧ ε m = .internal .loopApply ∧ enabled .loopApply (σ m).regs = true := by
  have runs := running_from run noReset looping
  induction d generalizing k with
  | zero =>
    have last : (σ k).regs.lphase = 3#2 := BitVec.eq_of_toNat_eq hd
    obtain ⟨m, hm, taken, hp⟩ := loopStepAt_taken run fair noReset looping hk
    have ready := enabled_loopStepAt (runs m (hk.trans hm))
    rw [hp, last] at ready
    rw [last] at taken
    exact ⟨m, hm, taken, ready⟩
  | succ d ih =>
    obtain ⟨m, hm, taken, hp⟩ := loopStepAt_taken run fair noReset looping hk
    have advanced : (σ (m + 1)).regs.lphase = (σ k).regs.lphase + 1#2 := by
      rw [← hp] at taken ⊢
      obtain ⟨t, ht, hnext⟩ := internalStep_loopStepAt (runs m (hk.trans hm))
      rw [isRun_internalStep run taken, ht]
      exact hnext
    obtain ⟨m', hm', applied⟩ := ih (k := m + 1) (by omega) (by rw [advanced]; bv_omega)
    exact ⟨m', by omega, applied⟩

end

/-- Settles O57: `irq` stands until it is served, the phase moves on to `LOOP_APPLY`, and the tick stays enabled. -/
theorem fairAgentsKeepWorking : Obligations.FairAgentsKeepWorking := by
  intro σ ε n run fair noReset
  refine ⟨irqService_taken run fair noReset, fun looping k hk => ?_,
    fun counting k => pwmTick_taken run fair noReset counting⟩
  exact loopApply_taken run fair noReset looping (3 - (σ k).regs.lphase.toNat) hk (by have := (σ k).regs.lphase.isLt; omega)

end Sys2Proof.Machine
end

section
/-! PROOFS. The handoff comes to rest (spec/41_sampler_and_handoff.md R155 to R163): on the handshake cycle at most one CDC step
is owed, taking it brings the handoff nearer to rest, and where nothing is published no other step touches the handoff. -/

namespace Sys2Proof.Machine

/-! The handshake bits. -/

/-- Around the cycle at most one bit differs from the one before it. -/
theorem mem_handshakeCycle_iff {q m a s : Bit} :
    (q, m, a, s) ∈ handshakeCycle ↔ (m = q ∨ a = m) ∧ (m = q ∨ s = a) ∧ (a = m ∨ s = a) := by
  revert q m a s; decide

/-- Each copy of a bit to the next one stays on the cycle. -/
theorem handshakeCycle_copy {q m a s : Bit} (h : (q, m, a, s) ∈ handshakeCycle) :
    (q, q, a, s) ∈ handshakeCycle ∧ (q, m, m, s) ∈ handshakeCycle ∧ (q, m, a, a) ∈ handshakeCycle := by
  revert q m a s; decide

/-- A launch out of idle stays on the cycle, and is not captured yet. -/
theorem handshakeCycle_launch {q m a s : Bit} (h : (q, m, a, s) ∈ handshakeCycle) (idle : q = s) :
    (~~~q, m, a, s) ∈ handshakeCycle ∧ a ≠ ~~~q := by
  revert q m a s; decide

theorem handshake_of_idle {q m a s : Bit} (h : (q, m, a, s) ∈ handshakeCycle) (idle : q = s) : m = q ∧ a = m := by
  revert q m a s; decide

/-! The invariant. -/

theorem handoffInv_launch {r : Regs} (inv : HandoffInv r) (idle : r.req = r.ackS) (v : Half) : HandoffInv (launch v r) := by
  obtain ⟨onCycle, flies⟩ := handshakeCycle_launch inv.1 idle
  exact ⟨onCycle, fun captured => absurd captured flies⟩

/-- Every step keeps the handoff's invariant. -/
theorem handoffInv_of_regsStep {e : Event} {r t : Regs} (h : RegsStep e r t) (inv : HandoffInv r) : HandoffInv t := by
  obtain ⟨onReq, onCapture, onAck⟩ := handshakeCycle_copy inv.1
  cases h with
  | irqLaunch _ _ idle => exact handoffInv_launch (r := { r with coco := 0#1 }) inv idle r.result
  | cdcRelaunch _ idle => exact handoffInv_launch inv idle r.pend
  | cdcSyncReq => exact ⟨onReq, inv.2⟩
  | cdcCapture => exact ⟨onCapture, fun _ => rfl⟩
  | cdcSyncAck => exact ⟨onAck, inv.2⟩
  | reset => exact ⟨by decide, fun _ => rfl⟩
  | _ => exact inv

/-! Steps that publish nothing. -/

/-- The step neither publishes a value (R152, R154) nor resets. -/
def Quiet (e : Event) (r : Regs) : Prop :=
  e ≠ .internal .reset ∧ (e = .internal .irqService → irq r = false)

theorem quiet_of_publishesNext {s : State} {e : Event} (noReset : e ≠ .internal .reset)
    (noPublish : publishesNext (s.choose e) = []) : Quiet e s.regs := by
  refine ⟨noReset, ?_⟩
  rintro rfl
  refine Bool.eq_false_iff.2 fun requested => ?_
  simp [publishesNext, requested] at noPublish

/-- The registers of the handoff are the same. -/
structure SameHandoff (r t : Regs) : Prop where
  sample : t.sample = r.sample
  reqM : t.reqM = r.reqM
  ack : t.ack = r.ack
  hold : t.hold = r.hold
  pend : t.pend = r.pend
  pendV : t.pendV = r.pendV
  req : t.req = r.req
  ackS : t.ackS = r.ackS

/-- A quiet step is one of the four handoff steps under its condition, or leaves the handoff as it was. -/
theorem handoff_cases_of_quiet {e : Event} {r t : Regs} (h : RegsStep e r t) (quiet : Quiet e r) :
    (e = .internal .cdcRelaunch ∧ r.req = r.ackS ∧ r.pendV = 1#1 ∧ t = launch r.pend r) ∨
    (e = .internal .cdcSyncReq ∧ r.reqM ≠ r.req ∧ t = { r with reqM := r.req }) ∨
    (e = .internal .cdcCapture ∧ r.reqM ≠ r.ack ∧ t = { r with sample := r.hold, ack := r.reqM }) ∨
    (e = .internal .cdcSyncAck ∧ r.ackS ≠ r.ack ∧ t = { r with ackS := r.ack }) ∨
    SameHandoff r t := by
  obtain ⟨noReset, noPublish⟩ := quiet
  cases h with
  | cdcRelaunch he idle waits => exact .inl ⟨he, idle, waits, rfl⟩
  | cdcSyncReq he differ => exact .inr (.inl ⟨he, differ, rfl⟩)
  | cdcCapture he differ => exact .inr (.inr (.inl ⟨he, differ, rfl⟩))
  | cdcSyncAck he differ => exact .inr (.inr (.inr (.inl ⟨he, differ, rfl⟩)))
  | irqLaunch he requested => simp [noPublish he] at requested
  | irqPark he requested => simp [noPublish he] at requested
  | reset he => exact absurd he noReset
  | _ => exact .inr (.inr (.inr (.inr ⟨rfl, rfl, rfl, rfl, rfl, rfl, rfl, rfl⟩)))

/-- A quiet step leaves the value that was published last as it was: a relaunch moves it from `PEND` to `HOLD` (R155). -/
theorem newestPublished_of_quiet {e : Event} {r t : Regs} (h : RegsStep e r t) (quiet : Quiet e r) :
    newestPublished t = newestPublished r := by
  rcases handoff_cases_of_quiet h quiet with
    ⟨_, _, waits, rfl⟩ | ⟨_, _, rfl⟩ | ⟨_, _, rfl⟩ | ⟨_, _, rfl⟩ | same
  · simp [newestPublished, waits]
  · rfl
  · rfl
  · rfl
  · simp only [newestPublished, same.pendV, same.pend, same.hold]

/-! The step the handoff owes. -/

/-- The handoff step that is due: each bit of the handshake copies the one before it, and at idle a waiting value is launched;
none at rest. -/
def cdcOwed (r : Regs) : Option InternalStep :=
  if r.reqM ≠ r.req then some .cdcSyncReq
  else if r.ack ≠ r.reqM then some .cdcCapture
  else if r.ackS ≠ r.ack then some .cdcSyncAck
  else if r.pendV = 1#1 then some .cdcRelaunch
  else none

/-- How many handoff steps are left until the handoff is at rest. -/
def cdcStepsLeft (r : Regs) : Nat :=
  4 * r.pendV.toNat +
    if r.reqM ≠ r.req then 3 else if r.ack ≠ r.reqM then 2 else if r.ackS ≠ r.ack then 1 else 0

theorem SameHandoff.cdcOwed {r t : Regs} (same : SameHandoff r t) : cdcOwed t = cdcOwed r := by
  simp only [Machine.cdcOwed, same.reqM, same.req, same.ack, same.ackS, same.pendV]

theorem SameHandoff.cdcStepsLeft {r t : Regs} (same : SameHandoff r t) : cdcStepsLeft t = cdcStepsLeft r := by
  simp only [Machine.cdcStepsLeft, same.reqM, same.req, same.ack, same.ackS, same.pendV]

/-- The step that is due is enabled and brings the handoff nearer to rest. -/
theorem internalStep_of_cdcOwed {r : Regs} {a : InternalStep} (owed : cdcOwed r = some a) :
    a.agent.isFair = true ∧ ∃ t, internalStep a r = some t ∧ cdcStepsLeft t < cdcStepsLeft r := by
  unfold cdcOwed at owed
  split_ifs at owed with hm ha hs waits <;> cases owed
  · refine ⟨rfl, _, if_pos hm, ?_⟩
    grind [cdcStepsLeft]
  · refine ⟨rfl, _, if_pos (Ne.symm ha), ?_⟩
    grind [cdcStepsLeft]
  · refine ⟨rfl, _, if_pos hs, ?_⟩
    grind [cdcStepsLeft]
  · simp only [ne_eq, not_not] at hm ha hs
    have idle : r.req = r.ackS := by rw [hs, ha, hm]
    refine ⟨rfl, _, if_pos ⟨cdcIdle_iff.2 idle, waits⟩, ?_⟩
    grind [cdcStepsLeft, launch]

/-- On the cycle no quiet step but the one that is due touches the handoff. -/
theorem sameHandoff_of_not_owed {e : Event} {r t : Regs} (h : RegsStep e r t) (quiet : Quiet e r) (inv : HandoffInv r)
    (other : ∀ a, cdcOwed r = some a → e ≠ .internal a) : SameHandoff r t := by
  have onCycle := mem_handshakeCycle_iff.1 inv.1
  rcases handoff_cases_of_quiet h quiet with
    ⟨he, idle, waits, _⟩ | ⟨he, differ, _⟩ | ⟨he, differ, _⟩ | ⟨he, differ, _⟩ | same
  · obtain ⟨hm, ha⟩ := handshake_of_idle inv.1 idle
    exact absurd he (other _ (by simp [cdcOwed, hm, ha, ← idle, waits]))
  · exact absurd he (other _ (by simp [cdcOwed, differ]))
  · have hm : r.reqM = r.req := onCycle.1.resolve_right (Ne.symm differ)
    exact absurd he (other _ (by simp [cdcOwed, ← hm, Ne.symm differ]))
  · have hm : r.reqM = r.req := onCycle.2.1.resolve_right differ
    have ha : r.ack = r.reqM := onCycle.2.2.resolve_right differ
    exact absurd he (other _ (by simp [cdcOwed, ← hm, ← ha, differ]))
  · exact same

/-- At rest the handoff is idle, nothing waits and `SAMPLE` is the value that was published last. -/
theorem delivered_of_rest {r : Regs} (inv : HandoffInv r) (rest : cdcOwed r = none) :
    r.sample = newestPublished r ∧ cdcIdle r = true ∧ r.pendV = 0#1 := by
  unfold cdcOwed at rest
  split_ifs at rest with hm ha hs waits
  simp only [ne_eq, not_not] at hm ha hs
  have idle : r.req = r.ackS := by rw [hs, ha, hm]
  have captured : r.sample = r.hold := inv.2 (ha.trans hm)
  refine ⟨?_, cdcIdle_iff.2 idle, bit_eq_zero_of_ne_one waits⟩
  rw [captured, newestPublished, if_neg waits]

/-! A fair run in which nothing is published from an instant on. -/

section
variable {σ : Nat → State} {ε : Nat → Event} {n : Nat} (run : IsRun σ ε) (inv : HandoffInv (σ n).regs)
  (quiet : ∀ m, n ≤ m → Quiet (ε m) (σ m).regs)
include run

include inv in
theorem handoffInv_from : ∀ m, n ≤ m → HandoffInv (σ m).regs :=
  holds_from inv fun m _ => handoffInv_of_regsStep (isRun_regsStep run m)

include quiet in
theorem newestPublished_from : ∀ m, n ≤ m → newestPublished (σ m).regs = newestPublished (σ n).regs :=
  holds_from rfl fun m hm same => (newestPublished_of_quiet (isRun_regsStep run m) (quiet m hm)).trans same

include inv quiet

/-- Once at rest, the handoff stays at rest. -/
theorem rest_from {k : Nat} (hk : n ≤ k) (rest : cdcOwed (σ k).regs = none) :
    ∀ m, k ≤ m → cdcOwed (σ m).regs = none := by
  refine holds_from rest fun m hm rest => ?_
  have same := sameHandoff_of_not_owed (isRun_regsStep run m) (quiet m (hk.trans hm))
    (handoffInv_from run inv m (hk.trans hm)) (fun a owed => by simp [rest] at owed)
  exact same.cdcOwed.trans rest

/-- The step that is due is taken, and brings the handoff nearer to rest. -/
theorem cdcOwed_taken (fair : WeaklyFair σ ε) {k : Nat} (hk : n ≤ k) {a : InternalStep}
    (owed : cdcOwed (σ k).regs = some a) : ∃ m, k ≤ m ∧ cdcStepsLeft (σ m).regs < cdcStepsLeft (σ k).regs := by
  obtain ⟨m, hm, taken, stillOwed, left⟩ := taken_of_weaklyFair (n := k) (a := a)
    (P := fun m => cdcOwed (σ m).regs = some a ∧ cdcStepsLeft (σ m).regs = cdcStepsLeft (σ k).regs)
    fair (internalStep_of_cdcOwed owed).1 ⟨owed, rfl⟩
    (fun m _ hp => by
      obtain ⟨_, _, ht, _⟩ := internalStep_of_cdcOwed hp.1
      exact enabled_of_internalStep ht)
    (fun m hm hp other => by
      have same := sameHandoff_of_not_owed (isRun_regsStep run m) (quiet m (hk.trans hm))
        (handoffInv_from run inv m (hk.trans hm)) (fun b hb => by rw [hp.1] at hb; cases hb; exact other)
      exact ⟨same.cdcOwed.trans hp.1, same.cdcStepsLeft.trans hp.2⟩)
  obtain ⟨_, t, ht, nearer⟩ := internalStep_of_cdcOwed stillOwed
  refine ⟨m + 1, by omega, ?_⟩
  rw [isRun_internalStep run taken, ht, ← left]
  exact nearer

/-- The steps left run out, so the handoff comes to rest. -/
theorem rest_reached (fair : WeaklyFair σ ε) {k : Nat} (hk : n ≤ k) : ∃ m, k ≤ m ∧ cdcOwed (σ m).regs = none := by
  induction left : cdcStepsLeft (σ k).regs using Nat.strong_induction_on generalizing k with
  | _ d ih =>
    cases owed : cdcOwed (σ k).regs with
    | none => exact ⟨k, le_rfl, owed⟩
    | some a =>
      obtain ⟨m, hm, nearer⟩ := cdcOwed_taken run inv quiet fair hk owed
      obtain ⟨m', hm', rest⟩ := ih _ (left ▸ nearer) (hk.trans hm) rfl
      exact ⟨m', hm.trans hm', rest⟩

end

/-- Settles O58: the steps left run out, at rest `SAMPLE` is the last value, and the handoff stays at rest. -/
theorem lastPublishedValueArrives : Obligations.LastPublishedValueArrives := by
  intro σ ε n run fair inv still
  have quiet : ∀ m, n ≤ m → Quiet (ε m) (σ m).regs := fun m hm =>
    quiet_of_publishesNext (still m hm).1 (still m hm).2
  obtain ⟨k, hk, rest⟩ := rest_reached run inv quiet fair le_rfl
  refine ⟨k, hk, fun m hm => ?_⟩
  rw [← newestPublished_from run quiet m (hk.trans hm)]
  exact delivered_of_rest (handoffInv_from run inv m (hk.trans hm)) (rest_from run inv quiet hk rest m hm)

end Sys2Proof.Machine
end

section
/-! PROOFS. Who writes what (spec/10_state.md R20, spec/20_memory.md R74, R78): the register table read by step kind gives
the frame of every step and of every command. -/

namespace Sys2Proof.Machine

/-! The register table, read by rows of step kinds. -/

/-- The registers that the table of R20 lists a step kind as a writer of. `RESET` has no row: it writes every
register (R250). -/
def StepKind.writes : StepKind → List RegName
  | .nop => []
  | .adcCfg => [.adcCtrl, .irqEn, .pinAnalog]
  | .adcStart => [.adcSel, .conv, .started]
  | .pwmCfg => [.pwmCtrl, .mod, .period, .pinPwm, .cmp, .cnt]
  | .pwmSetDuty => [.cmp]
  | .illegal => []
  | .convComplete => [.conv, .result, .coco]
  | .irqService => [.coco, .hold, .pend, .pendV, .req]
  | .cdcRelaunch => [.hold, .pendV, .req]
  | .cdcSyncReq => [.reqM]
  | .cdcCapture => [.sample, .ack]
  | .cdcSyncAck => [.ackS]
  | .loopSnap => [.lphase, .snap]
  | .loopMul => [.lphase, .prod]
  | .loopDiv => [.lphase, .dutyq]
  | .loopApply => [.cmp, .lphase]
  | .pwmTick => [.cnt]
  | .reset => []

theorem mem_writers_of_mem_writes {k : StepKind} : ∀ n ∈ k.writes, k ∈ n.writers := by
  cases k <;> decide

/-- A step but `RESET` leaves every register its kind does not write. -/
theorem val_of_regsStep {e : Event} {r t : Regs} {n : RegName} (h : RegsStep e r t) (noReset : e ≠ .internal .reset)
    (hn : n ∉ e.stepKind.writes) : n.val t = n.val r := by
  cases h with
  | same => rfl
  | reset he => exact absurd he noReset
  | adcCfg _ _ _ _ _ kind => rw [kind] at hn; cases n <;> simp [StepKind.writes] at hn <;> rfl
  | adcStart _ _ kind => rw [kind] at hn; cases n <;> simp [StepKind.writes] at hn <;> rfl
  | pwmCfg _ kind => rw [kind] at hn; cases n <;> simp [StepKind.writes] at hn <;> rfl
  | pwmSetDuty _ kind => rw [kind] at hn; cases n <;> simp [StepKind.writes] at hn <;> rfl
  | _ => subst e; cases n <;> simp [Event.stepKind, InternalStep.stepKind, StepKind.writes] at hn <;> rfl

/-- Settles O53: the frame of a step, by the registers its kind does not write. -/
theorem registersChangeOnlyByTheirWriters : Obligations.RegistersChangeOnlyByTheirWriters := by
  intro s t n h changed
  by_contra other
  obtain ⟨notWriter, notReset⟩ := not_or.1 other
  have noReset : s.nextEvent ≠ .internal .reset := fun he => notReset (by rw [he]; rfl)
  exact changed (val_of_regsStep (step_regsStep h) noReset (mt (mem_writers_of_mem_writes n) notWriter))

/-! The frame of a command. -/

/-- Some word presents a command of each row of the opcode map (R98). -/
theorem exists_event_of_mnemonic (m : Mnemonic) : ∃ e : Event, e.stepKind = Mnemonic.stepKind m := by
  cases m with
  | nop => exact ⟨.host 0x00000000#32, by decide⟩
  | adcCfg => exact ⟨.host 0x10000000#32, by decide⟩
  | adcStart => exact ⟨.host 0x20000000#32, by decide⟩
  | pwmCfg => exact ⟨.host 0x30000000#32, by decide⟩
  | pwmSetDuty => exact ⟨.host 0x40000000#32, by decide⟩

/-- A command leaves every register its kind does not write. -/
theorem exec_frame {i : Instr} {s t : State} {n : RegName} (h : exec i s = .next t)
    (hn : n ∉ (Mnemonic.stepKind i.mnemonic).writes) : n.val t.regs = n.val s.regs := by
  obtain ⟨e, he⟩ := exists_event_of_mnemonic i.mnemonic
  exact val_of_regsStep (exec_regsStep he h) (not_internal_of_stepKind he .reset) (by rw [he]; exact hn)

/-- A command leaves the model's own fields but for the response. -/
theorem exec_own_fields {i : Instr} {s t : State} (h : exec i s = .next t) :
    t.clocksReady = s.clocksReady ∧ t.sched = s.sched ∧ t.turn = s.turn := by
  obtain ⟨c, _, r, hx⟩ := exec_eq_finish i s
  obtain ⟨_, rfl⟩ := finish_eq_next.1 (hx.symm.trans h)
  exact ⟨rfl, rfl, rfl⟩

/-- The pin of a channel is its bit of `PIN_ANALOG` and no other (R31). -/
theorem getLsbD_channelPin_of_ne {ch : BitVec 8} {k : Nat} (hk : k ≠ ch.toNat) : (channelPin ch).getLsbD k = false := by
  simp only [channelPin, BitVec.getLsbD_shiftLeft, BitVec.getLsbD_one]
  by_cases below : k < ch.toNat
  · simp [below]
  · have apart : k - ch.toNat ≠ 0 := by omega
    simp [apart]

/-- Whether accepted or rejected, `ADC_CFG` leaves the analog pins of the other channels (R31, R121). -/
theorem execAdcCfg_other_pins {ch : BitVec 8} {cont avg : Bit} {count : BitVec 8} {s t : State} {k : Nat}
    (h : execAdcCfg ch cont avg count s = .next t) (hk : k ≠ ch.toNat) :
    t.regs.pinAnalog.getLsbD k = s.regs.pinAnalog.getLsbD k := by
  obtain ⟨_, ⟨_, rfl⟩ | ⟨_, _, rfl⟩ | ⟨_, _, _, rfl⟩ | ⟨_, _, d, _, rfl⟩⟩ := execAdcCfg_cases h
  · rfl
  · rfl
  · rfl
  · simp [getLsbD_channelPin_of_ne hk]

/-- Settles O15: the rows of the five commands in the register table, and the one pin of `ADC_CFG`. -/
theorem hostCommandFrames : Obligations.HostCommandFrames := by
  intro s t
  refine ⟨fun h n => exec_frame h List.not_mem_nil, fun ch cont avg count h => ⟨fun n hn => exec_frame h hn, fun k hk => ?_⟩,
    fun ch h n hn => exec_frame h hn, fun period h n hn => exec_frame h hn, fun duty h n hn => exec_frame h hn,
    fun i h => exec_own_fields h⟩
  exact execAdcCfg_other_pins h hk

end Sys2Proof.Machine
end

section
/-! PROOFS. The main domain (spec/10_state.md R53, spec/20_memory.md R79): two states that agree on it take the same branch of
every step but the capture and the request synchroniser, and every other step makes it from nothing but itself. -/

namespace Sys2Proof.Machine

/-- Registers are the same where all 26 values are. -/
theorem regs_eq_of_val {r t : Regs} (h : ∀ n : RegName, n.val r = n.val t) : r = t := by
  cases r
  cases t
  rw [Regs.mk.injEq]
  exact ⟨BitVec.eq_of_toNat_eq (h .adcCtrl), BitVec.eq_of_toNat_eq (h .adcSel), BitVec.eq_of_toNat_eq (h .started),
    BitVec.eq_of_toNat_eq (h .irqEn), BitVec.eq_of_toNat_eq (h .pinAnalog), BitVec.eq_of_toNat_eq (h .pinPwm),
    BitVec.eq_of_toNat_eq (h .pwmCtrl), BitVec.eq_of_toNat_eq (h .period), BitVec.eq_of_toNat_eq (h .mod),
    BitVec.eq_of_toNat_eq (h .cmp), BitVec.eq_of_toNat_eq (h .sample), BitVec.eq_of_toNat_eq (h .reqM),
    BitVec.eq_of_toNat_eq (h .ack), BitVec.eq_of_toNat_eq (h .lphase), BitVec.eq_of_toNat_eq (h .snap),
    BitVec.eq_of_toNat_eq (h .prod), BitVec.eq_of_toNat_eq (h .dutyq), BitVec.eq_of_toNat_eq (h .cnt),
    BitVec.eq_of_toNat_eq (h .conv), BitVec.eq_of_toNat_eq (h .result), BitVec.eq_of_toNat_eq (h .coco),
    BitVec.eq_of_toNat_eq (h .hold), BitVec.eq_of_toNat_eq (h .pend), BitVec.eq_of_toNat_eq (h .pendV),
    BitVec.eq_of_toNat_eq (h .req), BitVec.eq_of_toNat_eq (h .ackS)⟩

/-- The main domain alone: the registers of the other two domains are blanked (R53). -/
def onlyMain (r : Regs) : Regs :=
  { r with cnt := 0#16, conv := 0#1, result := 0#16, coco := 0#1, hold := 0#16, pend := 0#16, pendV := 0#1, req := 0#1,
           ackS := 0#1 }

theorem val_onlyMain (n : RegName) (r : Regs) : n.val (onlyMain r) = if n.domain = .mainM then n.val r else 0 := by
  cases n <;> rfl

theorem onlyMain_eq_iff {r t : Regs} :
    onlyMain r = onlyMain t ↔ ∀ n : RegName, n.domain = .mainM → n.val r = n.val t := by
  constructor
  · intro h n main
    have same := congrArg n.val h
    rwa [val_onlyMain, val_onlyMain, if_pos main, if_pos main] at same
  · intro h
    refine regs_eq_of_val fun n => ?_
    rw [val_onlyMain, val_onlyMain]
    split
    · next main => exact h n main
    · rfl

/-- A step whose kind writes no register of the main domain leaves that domain. -/
theorem onlyMain_internalStep_of_writes {a : InternalStep} {k : StepKind} (kind : a.stepKind = k) (noReset : k ≠ .reset)
    (elsewhere : ∀ n ∈ k.writes, n.domain ≠ .mainM) (r : Regs) : onlyMain ((internalStep a r).getD r) = onlyMain r := by
  subst kind
  cases hr : internalStep a r with
  | none => rfl
  | some t =>
    refine onlyMain_eq_iff.2 fun n main => ?_
    refine val_of_regsStep (internalStep_regsStep hr) ?_ fun hn => elsewhere n hn main
    rintro ⟨⟩
    exact noReset rfl

/-- Two outcomes are both a `finish`, with the same response and with registers that agree on the main domain. -/
def EndAlike (s t : State) (x y : StepOutcome) : Prop :=
  ∃ c r r', x = finish c r s ∧ y = finish c r' t ∧ onlyMain r = onlyMain r'

section
variable {s t : State} (agree : onlyMain s.regs = onlyMain t.regs)
include agree

theorem endAlike_raise (c : Response) : EndAlike s t (raise c s) (raise c t) :=
  ⟨some c, s.regs, t.regs, rfl, rfl, agree⟩

/-- An update that depends on nothing but the main domain. -/
theorem onlyMain_update {f : Regs → Regs} (blind : ∀ r, onlyMain (f r) = onlyMain (f (onlyMain r))) :
    onlyMain (f s.regs) = onlyMain (f t.regs) := by
  rw [blind, agree, ← blind]

theorem endAlike_accept {f : Regs → Regs} (blind : ∀ r, onlyMain (f r) = onlyMain (f (onlyMain r))) :
    EndAlike s t (accept (f s.regs) s) (accept (f t.regs) t) :=
  ⟨some .ok, _, _, rfl, rfl, onlyMain_update agree blind⟩

theorem exec_endAlike (i : Instr) : EndAlike s t (exec i s) (exec i t) := by
  have adcCtrl : s.regs.adcCtrl = t.regs.adcCtrl := (congrArg Regs.adcCtrl agree :)
  have pwmCtrl : s.regs.pwmCtrl = t.regs.pwmCtrl := (congrArg Regs.pwmCtrl agree :)
  cases i with
  | nop => exact endAlike_accept agree (f := id) fun _ => rfl
  | adcCfg ch cont avg count =>
    change EndAlike s t (execAdcCfg ch cont avg count s) (execAdcCfg ch cont avg count t)
    unfold execAdcCfg
    rw [adcCtrl]
    split
    · exact endAlike_raise agree _
    split
    · exact endAlike_raise agree _
    split
    · exact endAlike_raise agree _
    · exact endAlike_accept agree fun _ => rfl
  | adcStart ch =>
    change EndAlike s t (execAdcStart ch s) (execAdcStart ch t)
    unfold execAdcStart
    rw [adcCtrl]
    split
    · exact endAlike_raise agree _
    split
    · exact endAlike_raise agree _
    split
    · exact endAlike_raise agree _
    · exact endAlike_accept agree fun _ => rfl
  | pwmCfg period =>
    change EndAlike s t (execPwmCfg period s) (execPwmCfg period t)
    unfold execPwmCfg
    rw [pwmCtrl]
    split
    · exact endAlike_raise agree _
    split
    · exact endAlike_raise agree _
    · exact endAlike_accept agree fun _ => rfl
  | pwmSetDuty duty =>
    change EndAlike s t (execPwmSetDuty duty s) (execPwmSetDuty duty t)
    unfold execPwmSetDuty
    split
    · exact endAlike_raise agree _
    · exact endAlike_accept agree (f := writeDuty _) fun _ => rfl

/-- A step of the loop, whose guard and update see the main domain alone. -/
theorem onlyMain_loopStep {f : Regs → Regs} {phase : BitVec 2} (blind : ∀ r, onlyMain (f r) = onlyMain (f (onlyMain r))) :
    onlyMain ((if running s.regs ∧ s.regs.lphase = phase then some (f s.regs) else none).getD s.regs) =
      onlyMain ((if running t.regs ∧ t.regs.lphase = phase then some (f t.regs) else none).getD t.regs) := by
  have looping : running s.regs = running t.regs := (congrArg running agree :)
  have lphase : s.regs.lphase = t.regs.lphase := (congrArg Regs.lphase agree :)
  rw [looping, lphase]
  split
  · exact onlyMain_update agree blind
  · exact agree

theorem onlyMain_internalStep {a : InternalStep} (noCapture : a ≠ .cdcCapture) (noSync : a ≠ .cdcSyncReq) :
    onlyMain ((internalStep a s.regs).getD s.regs) = onlyMain ((internalStep a t.regs).getD t.regs) := by
  have elsewhere (k : StepKind) (kind : a.stepKind = k) (noReset : k ≠ .reset)
      (h : ∀ n ∈ k.writes, n.domain ≠ .mainM) :
      onlyMain ((internalStep a s.regs).getD s.regs) = onlyMain ((internalStep a t.regs).getD t.regs) := by
    rw [onlyMain_internalStep_of_writes kind noReset h, onlyMain_internalStep_of_writes kind noReset h, agree]
  cases a with
  | cdcCapture => exact absurd rfl noCapture
  | cdcSyncReq => exact absurd rfl noSync
  | reset => rfl
  | loopSnap => exact onlyMain_loopStep agree (f := fun r => { r with snap := r.sample, lphase := 1#2 }) fun _ => rfl
  | loopMul =>
    exact onlyMain_loopStep agree (f := fun r => { r with prod := mulStage r.period r.snap, lphase := 2#2 }) fun _ => rfl
  | loopDiv => exact onlyMain_loopStep agree (f := fun r => { r with dutyq := divStage r.prod, lphase := 3#2 }) fun _ => rfl
  | loopApply => exact onlyMain_loopStep agree (f := fun r => { writeDuty r.dutyq r with lphase := 0#2 }) fun _ => rfl
  | convComplete v => exact elsewhere .convComplete rfl (by decide) (by decide)
  | irqService => exact elsewhere .irqService rfl (by decide) (by decide)
  | cdcRelaunch => exact elsewhere .cdcRelaunch rfl (by decide) (by decide)
  | cdcSyncAck => exact elsewhere .cdcSyncAck rfl (by decide) (by decide)
  | pwmTick => exact elsewhere .pwmTick rfl (by decide) (by decide)

/-- The same step, but the two that cross from the sampler domain, ends alike in states that agree on the main domain. -/
theorem step_endAlike (same : s.nextEvent = t.nextEvent) (noCapture : s.nextEvent ≠ .internal .cdcCapture)
    (noSync : s.nextEvent ≠ .internal .cdcSyncReq) : EndAlike s.take t.take (step s) (step t) := by
  cases hs : s.nextEvent with
  | host cmd =>
    have ht := same.symm.trans hs
    cases hd : decode cmd with
    | ok i =>
      rw [step_of_decodes hs hd, step_of_decodes ht hd]
      exact exec_endAlike (s := s.take) (t := t.take) agree i
    | error e =>
      rw [step_of_illegal hs hd, step_of_illegal ht hd]
      exact endAlike_raise (s := s.take) (t := t.take) agree .errIllegal
  | internal a =>
    rw [hs] at noCapture noSync
    rw [step_of_internal hs, step_of_internal (same.symm.trans hs), runInternal_eq_finish, runInternal_eq_finish]
    exact ⟨none, _, _, rfl, rfl, onlyMain_internalStep agree (by simpa using noCapture) (by simpa using noSync)⟩

end

/-- Settles O54: agreement on the main domain is equality of what `onlyMain` keeps, and the two steps end alike. -/
theorem mainDomainSeesOnlyTheHandoff : Obligations.MainDomainSeesOnlyTheHandoff := by
  intro s t s' t' same noCapture noSync agree hs ht
  obtain ⟨c, r, r', hx, hy, alike⟩ := step_endAlike (onlyMain_eq_iff.2 agree) same noCapture noSync
  obtain ⟨_, rfl⟩ := finish_eq_next.1 (hx.symm.trans hs)
  obtain ⟨_, rfl⟩ := finish_eq_next.1 (hy.symm.trans ht)
  exact ⟨onlyMain_eq_iff.1 alike, rfl⟩

end Sys2Proof.Machine
end

section
/-! PROOFS. The timer (spec/10_state.md R33 to R38, R57, spec/43_pwm_timer.md R200 to R207): its invariant is kept by every step,
and on a running timer the output is the comparison of the counter with the compare register. -/

namespace Sys2Proof.Machine

/-! The invariant, on a running and on a stopped timer. -/

/-- `PWM_CTRL` is wholly 0 or wholly configured: `RUN` tells the two kinds of `TimerInv` apart. -/
theorem timerInv_running {r : Regs} (inv : TimerInv r) (counting : PwmCtrl.run r.pwmCtrl = 1#1) :
    r.pwmCtrl = 0x1C7#9 ∧ r.period ≠ 0#16 ∧ r.mod = r.period - 1#16 ∧ r.cnt ≤ r.mod ∧ r.pinPwm = 1#1 := by
  refine inv.resolve_left ?_
  rintro ⟨still, -⟩
  rw [still] at counting
  revert counting
  decide

theorem timerInv_stopped {r : Regs} (inv : TimerInv r) (stopped : PwmCtrl.run r.pwmCtrl = 0#1) :
    r.pwmCtrl = 0x000#9 ∧ r.period = 0#16 ∧ r.mod = 0#16 ∧ r.cnt = 0#16 ∧ r.pinPwm = 0#1 := by
  refine inv.resolve_right ?_
  rintro ⟨configured, -⟩
  rw [configured] at stopped
  revert stopped
  decide

/-- The counter never passes `MOD` (R38, R200). -/
theorem nextCount_le {cnt mod : Half} (h : cnt ≤ mod) : nextCount cnt mod ≤ mod := by
  unfold nextCount
  split
  · exact Nat.zero_le _
  · bv_omega

theorem timerInv_of_regsStep {e : Event} {r t : Regs} (h : RegsStep e r t) (inv : TimerInv r) : TimerInv t := by
  cases h with
  | pwmCfg period _ _ positive => exact .inr ⟨pwmCtrl_configured_eq, positive, rfl, Nat.zero_le _, rfl⟩
  | pwmTick _ counting =>
    obtain ⟨configured, positive, modulo, below, pin⟩ := timerInv_running inv counting
    exact .inr ⟨configured, positive, modulo, nextCount_le below, pin⟩
  | reset => exact .inl ⟨rfl, rfl, rfl, rfl, rfl⟩
  | _ => exact inv

/-- Settles O43: only `PWM_CFG`, `PWM_TICK` and `RESET` touch what the invariant speaks of. -/
theorem stepKeepsTimerInv : Obligations.StepKeepsTimerInv :=
  fun _ _ inv h => timerInv_of_regsStep (step_regsStep h) inv

/-! The output. -/

theorem pwmOut_iff {r : Regs} :
    pwmOut r = true ↔ PwmCtrl.run r.pwmCtrl = 1#1 ∧ r.pinPwm = 1#1 ∧ r.cnt.toNat < r.cmp.toNat := by
  simp [pwmOut, and_assoc, BitVec.lt_def]

/-- On a running timer the counter stays below the period (R38). -/
theorem cnt_lt_period {r : Regs} (inv : TimerInv r) (counting : PwmCtrl.run r.pwmCtrl = 1#1) :
    r.cnt.toNat < r.period.toNat := by
  obtain ⟨_, positive, modulo, below, _⟩ := timerInv_running inv counting
  rw [modulo] at below
  bv_omega

/-- Settles O46: the output is the comparison of `pwmOut_iff`, and the counter stays below the period. -/
theorem outputLevel : Obligations.OutputLevel := by
  intro r
  refine ⟨pwmOut_iff, fun inv counting full => ?_, fun zero => ?_, fun stopped => ?_, fun off => ?_⟩
  · obtain ⟨_, _, _, _, pin⟩ := timerInv_running inv counting
    exact pwmOut_iff.2 ⟨counting, pin, (cnt_lt_period inv counting).trans_le full⟩
  · simp [pwmOut, zero]
  · simp [pwmOut, stopped]
  · simp [pwmOut, off]

/-- A duty that fits is accepted in every state (R124). -/
theorem execPwmSetDuty_of_le {duty : BitVec 28} (s : State) (fits : duty.toNat ≤ 65535) :
    execPwmSetDuty duty s = accept (writeDuty (dutyField duty) s.regs) s :=
  if_neg (mt dutyOutOfRange_iff.1 (by omega))

/-- Settles O47: the accepted write leaves the counter and puts the duty into the compare register. -/
theorem dutyWriteActsAtOnce : Obligations.DutyWriteActsAtOnce := by
  intro s duty ready fits counting pin
  refine ⟨_, (execPwmSetDuty_of_le s fits).trans (finish_of_ready ready _ _), ?_⟩
  simp [pwmOut, counting, pin, BitVec.lt_def, dutyField_toNat fits]

end Sys2Proof.Machine
end

section
/-! PROOFS. The loop (spec/10_state.md R46 to R49, spec/42_scaler_and_loop.md R180 to R189): the scale of a sample never exceeds
the period, so product and duty belong to the snapshot and to the period of their iteration, which no step but `RESET` changes
while the loop runs. -/

namespace Sys2Proof.Machine

/-! The scaler. -/

/-- The product of two halves fits the multiplier's 32 bits (R180). -/
theorem mulStage_toNat (period sample : Half) : (mulStage period sample).toNat = period.toNat * sample.toNat := by
  have fits : period.toNat * sample.toNat ≤ 65535 * 65535 := Nat.mul_le_mul (by omega) (by omega)
  simp only [mulStage, BitVec.toNat_mul, BitVec.toNat_setWidth]
  rw [Nat.mod_eq_of_lt (a := period.toNat) (by omega), Nat.mod_eq_of_lt (a := sample.toNat) (by omega)]
  exact Nat.mod_eq_of_lt (by omega)

/-- `SCALE` is the floor of the exact product over 65535 (R180). -/
theorem scale_toNat (period sample : Half) : (scale period sample).toNat = period.toNat * sample.toNat / 65535 := by
  have fits : period.toNat * sample.toNat ≤ 65535 * 65535 := Nat.mul_le_mul (by omega) (by omega)
  have quotient : period.toNat * sample.toNat / 65535 ≤ 65535 := Nat.div_le_of_le_mul fits
  simp only [scale, divStage, scaleDivisor, BitVec.extractLsb'_toNat, BitVec.toNat_udiv, mulStage_toNat, Nat.shiftRight_zero]
  exact Nat.mod_eq_of_lt (by simp; omega)

theorem scale_le_period (period sample : Half) : scale period sample ≤ period := by
  have full : period.toNat * sample.toNat ≤ 65535 * period.toNat := by
    rw [Nat.mul_comm]
    exact Nat.mul_le_mul_right _ (by omega)
  rw [BitVec.le_def, scale_toNat]
  exact Nat.div_le_of_le_mul full

/-! The invariant. -/

theorem not_running_of_stopped {r : Regs} (stopped : PwmCtrl.run r.pwmCtrl = 0#1) : running r = false := by
  simp [running, stopped]

/-- While the loop is at rest, what its later phases say is empty (R184). -/
theorem loopInv_at_rest {r : Regs} (rest : r.lphase = 0#2) (bounded : r.dutyq ≤ r.period) : LoopInv r :=
  ⟨fun _ => rest, fun h => by simp [rest] at h, fun h => by simp [rest] at h, bounded⟩

/-- While the loop runs, the invariant is what its phases say. -/
theorem loopInv_looping {r : Regs} (looping : running r = true)
    (product : r.lphase = 2#2 → r.prod = mulStage r.period r.snap)
    (duty : r.lphase = 3#2 → r.prod = mulStage r.period r.snap ∧ r.dutyq = scale r.period r.snap)
    (bounded : r.dutyq ≤ r.period) : LoopInv r :=
  ⟨fun stopped => absurd (looping.symm.trans stopped) (by decide), product, duty, bounded⟩

/-- What leaves the loop's own registers and the period, and does not stop a loop that runs, keeps the invariant. -/
theorem loopInv_of_same {r t : Regs} (inv : LoopInv r) (stillRuns : running r = true → running t = true)
    (lphase : t.lphase = r.lphase) (snap : t.snap = r.snap) (prod : t.prod = r.prod) (dutyq : t.dutyq = r.dutyq)
    (period : t.period = r.period) : LoopInv t := by
  obtain ⟨atRest, product, duty, bounded⟩ := inv
  rw [LoopInv, lphase, snap, prod, dutyq, period]
  exact ⟨fun stopped => atRest (Bool.eq_false_iff.2 (mt stillRuns (Bool.eq_false_iff.1 stopped))), product, duty, bounded⟩

/-- Every step keeps the loop's invariant: `PWM_CFG` finds no duty but 0, because it finds the timer unconfigured. -/
theorem loopInv_of_regsStep {e : Event} {r t : Regs} (h : RegsStep e r t) (timer : TimerInv r) (inv : LoopInv r) :
    LoopInv t := by
  have step := h
  have ⟨atRest, product, _, bounded⟩ := inv
  cases h with
  | reset => exact loopInv_at_rest rfl (Nat.le_refl _)
  | adcCfg _ _ _ _ _ kind =>
    have runs := running_of_regsStep step (not_internal_of_stepKind (m := .adcCfg) kind _)
    exact loopInv_of_same inv runs rfl rfl rfl rfl rfl
  | adcStart _ _ kind =>
    have runs := running_of_regsStep step (not_internal_of_stepKind (m := .adcStart) kind _)
    exact loopInv_of_same inv runs rfl rfl rfl rfl rfl
  | pwmCfg period _ stopped =>
    obtain ⟨_, noPeriod, _⟩ := timerInv_stopped timer stopped
    rw [noPeriod] at bounded
    exact loopInv_at_rest (atRest (not_running_of_stopped stopped)) (bounded.trans (Nat.zero_le _))
  | loopSnap _ looping =>
    exact loopInv_looping looping (fun h => absurd h (by decide : 1#2 ≠ 2#2))
      (fun h => absurd h (by decide : 1#2 ≠ 3#2)) bounded
  | loopMul _ looping =>
    exact loopInv_looping looping (fun _ => rfl) (fun h => absurd h (by decide : 2#2 ≠ 3#2)) bounded
  | loopDiv _ looping multiplied =>
    have product := product multiplied
    have scaled : divStage r.prod = scale r.period r.snap := by rw [product, scale]
    have bounded : divStage r.prod ≤ r.period := scaled ▸ scale_le_period r.period r.snap
    exact loopInv_looping looping (fun h => absurd h (by decide : 3#2 ≠ 2#2)) (fun _ => ⟨product, scaled⟩) bounded
  | loopApply => exact loopInv_at_rest rfl bounded
  | _ => exact loopInv_of_same inv id rfl rfl rfl rfl rfl

/-- Settles O39: with the timer's invariant, no step can change the period under a duty that is not 0. -/
theorem stepKeepsLoopInv : Obligations.StepKeepsLoopInv :=
  fun _ _ timer inv h => loopInv_of_regsStep (step_regsStep h) timer inv

end Sys2Proof.Machine
end

section
/-! PROOFS. Configuration (spec/10_state.md R23 to R31, R55, R56): the sampler is configured once, on one legal channel and with
its interrupt enabled, and started on that channel; what is configured lasts until `RESET`, and so does `running`. -/

namespace Sys2Proof.Machine

/-! The sampler's invariant, unconfigured and configured. -/

/-- `PWR` tells the two kinds of `SamplerInv` apart. -/
theorem samplerInv_unconfigured {r : Regs} (inv : SamplerInv r) (off : AdcCtrl.pwr r.adcCtrl = 0#1) :
    r.adcCtrl = 0#12 ∧ r.irqEn = 0#1 ∧ r.pinAnalog = 0#6 ∧ r.started = 0#1 := by
  refine inv.1.resolve_right ?_
  rintro ⟨on, -⟩
  simp [on] at off

theorem samplerInv_configured {r : Regs} (inv : SamplerInv r) (on : AdcCtrl.pwr r.adcCtrl = 1#1) :
    AdcCtrl.pwr r.adcCtrl = 1#1 ∧ AdcCtrl.lpwr r.adcCtrl = 1#1 ∧ AdcCtrl.lsmp r.adcCtrl = 1#1 ∧
      AdcCtrl.m16 r.adcCtrl = 1#1 ∧ AdcCtrl.ien r.adcCtrl = 1#1 ∧ r.irqEn = 1#1 ∧
      (AdcCtrl.avge r.adcCtrl = 0#1 → AdcCtrl.avgs r.adcCtrl = 0#2) ∧
      (AdcCtrl.ch r.adcCtrl).toNat ≤ 5 ∧ r.pinAnalog = 1#6 <<< (AdcCtrl.ch r.adcCtrl).toNat := by
  refine inv.1.resolve_left ?_
  rintro ⟨unconfigured, -⟩
  rw [unconfigured] at on
  revert on
  decide

theorem pwr_of_started {r : Regs} (inv : SamplerInv r) (started : r.started = 1#1) : AdcCtrl.pwr r.adcCtrl = 1#1 := by
  rcases inv.1 with ⟨_, _, _, notStarted⟩ | ⟨on, _⟩
  · simp [started] at notStarted
  · exact on

/-- With averaging off the depth code is 0 (R26, R121). -/
theorem avgsField_of_off {count : BitVec 8} {d : BitVec 2} (h : avgsField 0#1 count = some d) : d = 0#2 := by
  unfold avgsField at h
  split_ifs at h with _ on
  · exact absurd on (by decide)
  · exact (Option.some.inj h).symm

/-- A legal channel fits the field that keeps it. -/
theorem setWidth_channelField {ch : BitVec 8} (h : ch.toNat ≤ 5) : (channelField ch).setWidth 8 = ch := by
  revert ch; decide

theorem samplerInv_configureSampler {r : Regs} (inv : SamplerInv r) (off : AdcCtrl.pwr r.adcCtrl = 0#1) {ch : BitVec 8}
    (legal : ch.toNat ≤ 5) {cont avg : Bit} {count : BitVec 8} {d : BitVec 2} (depth : avgsField avg count = some d) :
    SamplerInv (configureSampler ch cont avg d r) := by
  obtain ⟨_, _, noPin, notStarted⟩ := samplerInv_unconfigured inv off
  obtain ⟨pwr, lpwr, lsmp, m16, ien, _, avge, avgs, chan⟩ := adcCtrl_configured_fields cont avg d (channelField ch)
  have pin : r.pinAnalog ||| channelPin ch = 1#6 <<< (channelField ch).toNat := by
    rw [noPin, BitVec.zero_or, channelField_toNat legal, channelPin]
  refine ⟨.inr ⟨pwr, lpwr, lsmp, m16, ien, rfl, ?_, ?_, ?_⟩, inv.2.1, fun started => ?_⟩
  · rw [configureSampler_adcCtrl, avge, avgs]
    rintro rfl
    exact avgsField_of_off depth
  · rw [configureSampler_adcCtrl, chan, channelField_toNat legal]
    exact legal
  · rw [configureSampler_adcCtrl, chan, configureSampler_pinAnalog, pin]
  · rw [configureSampler_started, notStarted] at started
    exact absurd started (by decide)

/-- Every step keeps the sampler's invariant. -/
theorem samplerInv_of_regsStep {e : Event} {r t : Regs} (h : RegsStep e r t) (inv : SamplerInv r) : SamplerInv t := by
  have ⟨configuration, before, after⟩ := inv
  cases h with
  | adcCfg _ _ _ _ _ _ off legal depth => exact samplerInv_configureSampler inv off legal depth
  | adcStart ch sel _ on legal channel code =>
    refine ⟨.inr (samplerInv_configured (r := r) inv on),
      fun notStarted => absurd notStarted (by decide : 1#1 ≠ 0#1), fun _ => ?_⟩
    rw [startConversion_adcCtrl, ← channel, setWidth_channelField legal, code, startConversion_adcSel]
  | convComplete v _ converting =>
    refine ⟨configuration, fun notStarted => ?_, after⟩
    rw [(before notStarted).2.1] at converting
    exact absurd converting (by decide)
  | irqLaunch => exact ⟨configuration, fun notStarted => ⟨(before notStarted).1, (before notStarted).2.1, rfl⟩, after⟩
  | irqPark => exact ⟨configuration, fun notStarted => ⟨(before notStarted).1, (before notStarted).2.1, rfl⟩, after⟩
  | reset => exact ⟨.inl ⟨rfl, rfl, rfl, rfl⟩, fun _ => ⟨rfl, rfl, rfl⟩, fun started => absurd started (by decide)⟩
  | _ => exact inv

/-- Settles O49: the two sampler commands, the completion and the handler are the steps that touch what it speaks of. -/
theorem stepKeepsSamplerInv : Obligations.StepKeepsSamplerInv :=
  fun _ _ inv h => samplerInv_of_regsStep (step_regsStep h) inv

/-- A completion comes after the first start, so the interrupt is enabled (R55). -/
theorem irq_of_coco {r : Regs} (inv : SamplerInv r) (completed : r.coco = 1#1) : irq r = true := by
  have started : r.started = 1#1 := bit_eq_one_of_ne_zero fun notStarted => by
    obtain ⟨_, _, notCompleted⟩ := inv.2.1 notStarted
    simp [completed] at notCompleted
  obtain ⟨_, _, _, _, ien, irqEn, _⟩ := samplerInv_configured inv (pwr_of_started inv started)
  exact irq_iff.2 ⟨completed, ien, irqEn⟩

/-- Settles O50: `irq` is its three bits, and both enables are on once a completion can be pending. -/
theorem pendingCompletionRequestsInterrupt : Obligations.PendingCompletionRequestsInterrupt := by
  refine fun r => ⟨irq_iff, fun inv completed => ?_⟩
  have requested := irq_of_coco inv completed
  exact ⟨requested, enabled_of_internalStep (if_pos requested)⟩

/-! What lasts until `RESET`. -/

section
variable {e : Event} {r t : Regs} (h : RegsStep e r t) (noReset : e ≠ .internal .reset)
include h noReset

theorem adcCtrl_of_regsStep (on : AdcCtrl.pwr r.adcCtrl = 1#1) : t.adcCtrl = r.adcCtrl := by
  cases h with
  | adcCfg _ _ _ _ _ _ off => simp [on] at off
  | reset he => exact absurd he noReset
  | _ => rfl

theorem irqEn_of_regsStep (on : r.irqEn = 1#1) : t.irqEn = 1#1 := by
  cases h with
  | adcCfg => rfl
  | reset he => exact absurd he noReset
  | _ => exact on

theorem started_of_regsStep (on : r.started = 1#1) : t.started = 1#1 := by
  cases h with
  | adcStart => rfl
  | reset he => exact absurd he noReset
  | _ => exact on

theorem timer_of_regsStep (counting : PwmCtrl.run r.pwmCtrl = 1#1) :
    t.pwmCtrl = r.pwmCtrl ∧ t.period = r.period ∧ t.mod = r.mod := by
  cases h with
  | pwmCfg _ _ stopped => simp [counting] at stopped
  | reset he => exact absurd he noReset
  | _ => exact ⟨rfl, rfl, rfl⟩

end

/-- Settles O51: each configured register, step by step. -/
theorem configurationLastsUntilReset : Obligations.ConfigurationLastsUntilReset := by
  intro s t h noReset
  have step := step_regsStep h
  exact ⟨adcCtrl_of_regsStep step noReset, irqEn_of_regsStep step noReset, started_of_regsStep step noReset,
    timer_of_regsStep step noReset⟩

/-! `running`. -/

/-- A command that is not accepted changes no register (R221). -/
theorem exec_ok_or_unchanged {i : Instr} {s t : State} (h : exec i s = .next t) :
    t.rsp = some .ok ∨ t.regs = s.regs := by
  cases i with
  | nop => obtain ⟨_, rfl⟩ := accept_eq_next.1 h; exact .inl rfl
  | adcCfg ch cont avg count =>
    obtain ⟨_, ⟨_, rfl⟩ | ⟨_, _, rfl⟩ | ⟨_, _, _, rfl⟩ | ⟨_, _, _, _, rfl⟩⟩ := execAdcCfg_cases h
    · exact .inr rfl
    · exact .inr rfl
    · exact .inr rfl
    · exact .inl rfl
  | adcStart ch =>
    obtain ⟨_, ⟨_, rfl⟩ | ⟨_, _, rfl⟩ | ⟨_, _, _, rfl⟩ | ⟨_, _, _, _, _, rfl⟩⟩ := execAdcStart_cases h
    · exact .inr rfl
    · exact .inr rfl
    · exact .inr rfl
    · exact .inl rfl
  | pwmCfg period =>
    obtain ⟨_, ⟨_, rfl⟩ | ⟨_, _, rfl⟩ | ⟨_, _, rfl⟩⟩ := execPwmCfg_cases h
    · exact .inr rfl
    · exact .inr rfl
    · exact .inl rfl
  | pwmSetDuty duty =>
    obtain ⟨_, ⟨_, rfl⟩ | ⟨_, rfl⟩⟩ := execPwmSetDuty_cases h
    · exact .inr rfl
    · exact .inl rfl

theorem not_running_reset : running Regs.reset = false := by
  decide

/-- `RESET` leaves every register at its reset value, from any state (R250). -/
theorem regs_of_reset {s t : State} (h : step s = .next t) (reset : s.nextEvent = .internal .reset) :
    t.regs = Regs.reset := by
  rw [step_of_internal reset] at h
  obtain ⟨_, rfl⟩ := runInternal_eq_next.1 h
  rfl

/-- `running` rises only in a step of one of the three commands whose flags it is made of (R56). -/
theorem stepKind_of_running_rises {e : Event} {r t : Regs} (h : RegsStep e r t) (initializing : running r = false)
    (looping : running t = true) : e.stepKind ∈ [StepKind.adcCfg, .pwmCfg, .adcStart] := by
  cases h with
  | adcCfg _ _ _ _ _ kind => simp [kind]
  | adcStart _ _ kind => simp [kind]
  | pwmCfg _ kind => simp [kind]
  | reset => exact absurd (looping.symm.trans not_running_reset) (by decide)
  | _ => exact absurd (looping.symm.trans initializing) (by decide)

/-- A step that changes a register is another agent's or answers `OK`. -/
theorem rsp_ok_of_changed {s t : State} (h : step s = .next t) (host : ∀ a, s.nextEvent ≠ .internal a)
    (changed : t.regs ≠ s.regs) : t.rsp = some .ok := by
  rcases step_cases h with ⟨_, _, _, _, hx⟩ | ⟨_, _, _, _, _, rfl⟩ | ⟨a, ha, _⟩
  · exact (exec_ok_or_unchanged hx).resolve_right changed
  · exact absurd rfl changed
  · exact absurd ha (host a)

/-- Settles O52: no step but `RESET` takes `running` back, and it rises only where a command changes a register. -/
theorem runningRisesOnceAndStays : Obligations.RunningRisesOnceAndStays := by
  refine ⟨fun r => running_iff, fun s t h => ?_⟩
  refine ⟨fun looping noReset => running_of_regsStep (step_regsStep h) noReset looping,
    fun _ reset => by rw [regs_of_reset h reset]; exact not_running_reset, fun initializing looping => ?_⟩
  have kind := stepKind_of_running_rises (step_regsStep h) initializing looping
  refine ⟨rsp_ok_of_changed h (fun a ha => ?_) fun same => ?_, kind⟩
  · rw [ha] at kind
    cases a <;> simp [Event.stepKind, InternalStep.stepKind] at kind
  · rw [same, initializing] at looping
    exact absurd looping (by decide)

end Sys2Proof.Machine
end

section
/-! PROOFS. Where `SAMPLE` comes from (spec/10_state.md R45, spec/41_sampler_and_handoff.md R154 to R162): a step puts into the
handoff only the value it publishes, and into `SAMPLE` only a value in flight, or resets. -/

namespace Sys2Proof.Machine

/-! Runs of steps. -/

/-- A run of steps that answers a next state begins with a step that does. -/
theorem runSteps_succ_eq_next {n : Nat} {s t : State} :
    runSteps (n + 1) s = .next t ↔ ∃ u, step s = .next u ∧ runSteps n u = .next t := by
  cases h : step s <;> simp [runSteps, Host.Core.run, Sys2Proof.core, h]

theorem seenIn_succ {next : State → List Half} {s u : State} (h : step s = .next u) (n : Nat) :
    seenIn next (n + 1) s = next s ++ seenIn next n u := by
  simp only [seenIn, h]

/-! What is in flight. -/

theorem mem_inFlight_iff {v : Half} {r : Regs} :
    v ∈ inFlight r ↔ (r.ack ≠ r.req ∧ v = r.hold) ∨ (r.pendV = 1#1 ∧ v = r.pend) := by
  unfold inFlight
  by_cases captured : r.ack = r.req <;> by_cases waits : r.pendV = 1#1 <;> simp [captured, waits]

/-- What a capture finds is in flight: on the cycle the request it answers is the last one. -/
theorem hold_mem_inFlight {r : Regs} (inv : HandoffInv r) (asked : r.reqM ≠ r.ack) : r.hold ∈ inFlight r := by
  have synced : r.reqM = r.req := (mem_handshakeCycle_iff.1 inv.1).1.resolve_right (Ne.symm asked)
  exact mem_inFlight_iff.2 (.inl ⟨fun captured => asked (synced.trans captured.symm), rfl⟩)

/-- After a launch the launched value alone is in flight. -/
theorem eq_of_mem_inFlight_launch {v w : Half} {r : Regs} (h : w ∈ inFlight (launch v r)) : w = v := by
  rcases mem_inFlight_iff.1 h with ⟨_, rfl⟩ | ⟨waits, _⟩
  · rfl
  · exact absurd waits (by simp)

/-! One step. -/

theorem mem_publishesNext {s : State} (service : s.nextEvent = .internal .irqService) (requested : irq s.regs = true) :
    s.regs.result ∈ publishesNext s := by
  simp [publishesNext, service, requested]

theorem sample_of_regsStep {e : Event} {r t : Regs} (h : RegsStep e r t) (inv : HandoffInv r) :
    t.sample = r.sample ∨ t.sample = Config.sampleReset ∨ t.sample ∈ inFlight r := by
  cases h with
  | cdcCapture _ asked => exact .inr (.inr (hold_mem_inFlight inv asked))
  | reset => exact .inr (.inl rfl)
  | _ => exact .inl rfl

/-- What is in flight after a step was so before it, or is the result the handler publishes in it. -/
theorem inFlight_of_regsStep {e : Event} {r t : Regs} (h : RegsStep e r t) (inv : HandoffInv r) {v : Half}
    (flies : v ∈ inFlight t) : v ∈ inFlight r ∨ (e = .internal .irqService ∧ irq r = true ∧ v = r.result) := by
  cases h with
  | irqLaunch service requested => exact .inr ⟨service, requested, eq_of_mem_inFlight_launch flies⟩
  | irqPark service requested =>
    rcases mem_inFlight_iff.1 flies with held | ⟨_, parked⟩
    · exact .inl (mem_inFlight_iff.2 (.inl held))
    · exact .inr ⟨service, requested, parked⟩
  | cdcRelaunch _ _ waits => exact .inl (mem_inFlight_iff.2 (.inr ⟨waits, eq_of_mem_inFlight_launch flies⟩))
  | cdcCapture _ asked =>
    rcases mem_inFlight_iff.1 flies with ⟨_, rfl⟩ | waiting
    · exact .inl (hold_mem_inFlight inv asked)
    · exact .inl (mem_inFlight_iff.2 (.inr waiting))
  | reset => cases flies
  | _ => exact .inl flies

/-! Any number of steps. -/

/-- The values `SAMPLE` can have after `n` steps from `s`: the one it has, its reset value, and those in flight or
published. -/
def sampleOrigins (n : Nat) (s : State) : List Half :=
  s.regs.sample :: Config.sampleReset :: (inFlight s.regs ++ seenIn publishesNext n s)

theorem mem_sampleOrigins {n : Nat} {s : State} {v : Half} :
    v ∈ sampleOrigins n s ↔
      v = s.regs.sample ∨ v = Config.sampleReset ∨ v ∈ inFlight s.regs ∨ v ∈ seenIn publishesNext n s := by
  simp [sampleOrigins]

/-- The origins after a step are among those before it. -/
theorem sampleOrigins_of_step {n : Nat} {s u : State} {v : Half} (h : step s = .next u) (inv : HandoffInv s.regs)
    (origin : v ∈ sampleOrigins n u) : v ∈ sampleOrigins (n + 1) s := by
  rw [mem_sampleOrigins] at origin ⊢
  rw [seenIn_succ h, List.mem_append]
  rcases origin with rfl | reset | flies | later
  · rcases sample_of_regsStep (step_regsStep h) inv with same | reset | flies
    · exact .inl same
    · exact .inr (.inl reset)
    · exact .inr (.inr (.inl flies))
  · exact .inr (.inl reset)
  · rcases inFlight_of_regsStep (step_regsStep h) inv flies with before | ⟨service, requested, rfl⟩
    · exact .inr (.inr (.inl before))
    · exact .inr (.inr (.inr (.inl (mem_publishesNext service requested))))
  · exact .inr (.inr (.inr (.inr later)))

/-- By induction on the number of steps: each keeps the handoff's invariant and brings no new origin. -/
theorem sample_mem_sampleOrigins {n : Nat} {s t : State} (inv : HandoffInv s.regs) (run : runSteps n s = .next t) :
    t.regs.sample ∈ sampleOrigins n s := by
  induction n generalizing s with
  | zero =>
    cases run
    exact List.mem_cons_self
  | succ n ih =>
    obtain ⟨u, first, rest⟩ := runSteps_succ_eq_next.1 run
    exact sampleOrigins_of_step first inv (ih (handoffInv_of_regsStep (step_regsStep first) inv) rest)

/-- Settles O33: the list of the statement is `sampleOrigins`. -/
theorem sampleIsResetOrPublished : Obligations.SampleIsResetOrPublished :=
  fun _ _ _ _ inv run => sample_mem_sampleOrigins inv run

end Sys2Proof.Machine
end

section
/-! PROOFS. Order and no invention across the handoff (spec/20_memory.md R77, R79, spec/41_sampler_and_handoff.md R154 to R163):
the values in flight are a queue: a capture takes its front, a publish joins at the back, where it may supersede the value that
waited, and no other step adds to it. -/

namespace Sys2Proof.Machine

/-! The queue. -/

theorem publishesNext_eq_result {s : State} (service : s.nextEvent = .internal .irqService)
    (requested : irq s.regs = true) : publishesNext s = [s.regs.result] := by
  simp [publishesNext, service, requested]

theorem capturesNext_eq_hold {s : State} (capture : s.nextEvent = .internal .cdcCapture)
    (asked : s.regs.reqM ≠ s.regs.ack) : capturesNext s = [s.regs.hold] := by
  simp [capturesNext, capture, asked]

theorem capturesNext_eq_nil {s : State} (noCapture : s.nextEvent = .internal .cdcCapture → s.regs.reqM = s.regs.ack) :
    capturesNext s = [] := by
  unfold capturesNext
  split
  · next capture => exact if_neg (not_not_intro (noCapture capture))
  · rfl

/-- A launch leaves in flight at most the value it launches. -/
theorem inFlight_launch_sublist (v : Half) (r : Regs) : (inFlight (launch v r)).Sublist [v] := by
  by_cases captured : r.ack = ~~~r.req <;> simp [inFlight, captured]

/-- A parked value takes the place of the one that waited, behind the one in flight (R154). -/
theorem inFlight_park_sublist (v : Half) (r : Regs) : (inFlight (park v r)).Sublist (inFlight r ++ [v]) := by
  have parked : inFlight (park v r) = (if r.ack = r.req then [] else [r.hold]) ++ [v] := rfl
  rw [parked]
  exact (List.sublist_append_left _ _).append_right [v]

/-- A value that waits is in flight. -/
theorem pend_sublist_inFlight {r : Regs} (waits : r.pendV = 1#1) : [r.pend].Sublist (inFlight r) := by
  rw [inFlight, if_pos waits]
  exact List.sublist_append_right _ _

/-- A capture takes the front of the queue: on the cycle the request it answers is the last one (R157). -/
theorem inFlight_of_capture {r : Regs} (inv : HandoffInv r) (asked : r.reqM ≠ r.ack) :
    inFlight r = r.hold :: inFlight { r with sample := r.hold, ack := r.reqM } := by
  have synced : r.reqM = r.req := (mem_handshakeCycle_iff.1 inv.1).1.resolve_right (Ne.symm asked)
  have flies : r.ack ≠ r.req := fun captured => asked (synced.trans captured.symm)
  simp [inFlight, flies, synced]

/-! One step. -/

/-- A step that captures nothing adds to what is in flight only the value it publishes, at the back. -/
theorem inFlight_sublist_of_regsStep {s : State} {t : Regs} (h : RegsStep s.nextEvent s.regs t)
    (noCapture : s.nextEvent = .internal .cdcCapture → s.regs.reqM = s.regs.ack) :
    (inFlight t).Sublist (inFlight s.regs ++ publishesNext s) := by
  cases h with
  | irqLaunch service requested =>
    rw [publishesNext_eq_result service requested]
    exact (inFlight_launch_sublist _ _).trans (List.sublist_append_right _ _)
  | irqPark service requested =>
    rw [publishesNext_eq_result service requested]
    exact inFlight_park_sublist s.regs.result { s.regs with coco := 0#1 }
  | cdcRelaunch _ _ waits =>
    exact ((inFlight_launch_sublist _ _).trans (pend_sublist_inFlight waits)).trans (List.sublist_append_left _ _)
  | cdcCapture capture asked => exact absurd (noCapture capture) asked
  | reset => exact List.nil_sublist _
  | _ => exact List.sublist_append_left (inFlight s.regs) _

theorem regs_of_capture {s t : State} (h : step s = .next t) (capture : s.nextEvent = .internal .cdcCapture)
    (asked : s.regs.reqM ≠ s.regs.ack) : t.regs = { s.regs with sample := s.regs.hold, ack := s.regs.reqM } := by
  rw [step_of_internal capture] at h
  obtain ⟨_, rfl⟩ := runInternal_eq_next.1 h
  simp [internalStep, cdcCapture, asked]

/-- What a step captures, before what it leaves in flight, was in flight before what it publishes. -/
theorem captured_inFlight_sublist_of_step {s t : State} (h : step s = .next t) (inv : HandoffInv s.regs) :
    (capturesNext s ++ inFlight t.regs).Sublist (inFlight s.regs ++ publishesNext s) := by
  by_cases captures : s.nextEvent = .internal .cdcCapture ∧ s.regs.reqM ≠ s.regs.ack
  · obtain ⟨capture, asked⟩ := captures
    rw [capturesNext_eq_hold capture asked, regs_of_capture h capture asked, inFlight_of_capture inv asked]
    exact List.sublist_append_left _ _
  · have noCapture : s.nextEvent = .internal .cdcCapture → s.regs.reqM = s.regs.ack :=
      fun capture => not_not.1 fun asked => captures ⟨capture, asked⟩
    rw [capturesNext_eq_nil noCapture]
    exact inFlight_sublist_of_regsStep (step_regsStep h) noCapture

/-! Any number of steps. -/

/-- Settles O31: by induction on the number of steps, what the first step leaves in flight is captured after its own capture
and before what is published later. -/
theorem capturedIsSublistOfPublished : Obligations.CapturedIsSublistOfPublished := by
  intro n
  induction n with
  | zero => exact fun _ _ _ => List.nil_sublist _
  | succ n ih =>
    intro s ready inv
    obtain ⟨t, first, ready'⟩ := step_completes ready
    have later := ih t ready' (handoffInv_of_regsStep (step_regsStep first) inv)
    have now := captured_inFlight_sublist_of_step first inv
    rw [seenIn_succ first, seenIn_succ first, ← List.append_assoc]
    refine (later.append_left (capturesNext s)).trans ?_
    rw [← List.append_assoc]
    exact now.append_right _

end Sys2Proof.Machine
end

section
/-! PROOFS. The decoder and the encoder (spec/30_encoding.md R90 to R104): the decoder reads the fields of the format its
opcode names, so that it undoes the encoder and is undone by it; the rows of the opcode map are the formats' fixed fields; the
assembler accepts the written form of each command and nothing else. -/

namespace Sys2Proof

/-! The decoder, by opcode. -/

theorem opcode_cases (op : BitVec 4) :
    op = 0#4 ∨ op = 1#4 ∨ op = 2#4 ∨ op = 3#4 ∨ op = 4#4 ∨ 5 ≤ op.toNat := by
  revert op; decide

theorem decode_cases (w : Word) :
    (opcodeOf w = 0#4 ∧ decode w = decodeNop w) ∨ (opcodeOf w = 1#4 ∧ decode w = decodeAdcCfg w) ∨
    (opcodeOf w = 2#4 ∧ decode w = decodeAdcStart w) ∨ (opcodeOf w = 3#4 ∧ decode w = decodePwmCfg w) ∨
    (opcodeOf w = 4#4 ∧ decode w = decodePwmSetDuty w) ∨
    (5 ≤ (opcodeOf w).toNat ∧ decode w = .error .reservedOpcode) := by
  unfold decode
  rcases opcode_cases (opcodeOf w) with hop | hop | hop | hop | hop | hop
  · exact .inl ⟨hop, by rw [hop]; rfl⟩
  · exact .inr (.inl ⟨hop, by rw [hop]; rfl⟩)
  · exact .inr (.inr (.inl ⟨hop, by rw [hop]; rfl⟩))
  · exact .inr (.inr (.inr (.inl ⟨hop, by rw [hop]; rfl⟩)))
  · exact .inr (.inr (.inr (.inr (.inl ⟨hop, by rw [hop]; rfl⟩))))
  · refine .inr (.inr (.inr (.inr (.inr ⟨hop, ?_⟩))))
    split
    case h_6 => rfl
    all_goals omega

section
variable {p : Prop} [Decidable p] {i j : Instr} {r : DecodeError}

/-- A format's decoder answers a command only where its reserved fields are zero. -/
theorem guarded_eq_ok_iff : (if p then .ok i else .error r : Except DecodeError Instr) = .ok j ↔ p ∧ i = j := by
  split <;> simp [*]

/-- A format's decoder refuses a word exactly where a reserved field is not zero. -/
theorem guarded_eq_error_iff : (∃ e, (if p then .ok i else .error r : Except DecodeError Instr) = .error e) ↔ ¬ p := by
  split <;> simp [*]

end

/-! A word is its fields, put together again. -/

theorem encode_nop_fields {w : Word} (hop : opcodeOf w = 0#4) (reserved : w.extractLsb' 0 28 = 0#28) :
    encode .nop = w := by
  simp only [encode]
  rw [← hop, ← reserved, opcodeOf]
  exact BitVec.extractLsb'_append_extractLsb'

theorem encode_adcCfg_fields {w : Word} (hop : opcodeOf w = 1#4) (high : w.extractLsb' 24 4 = 0#4)
    (low : w.extractLsb' 10 6 = 0#6) :
    encode (.adcCfg (w.extractLsb' 0 8) (w.extractLsb' 8 1) (w.extractLsb' 9 1) (w.extractLsb' 16 8)) = w := by
  simp only [encode]
  rw [← hop, ← high, ← low, opcodeOf]
  iterate 6 rw [BitVec.extractLsb'_append_extractLsb'_eq_extractLsb' (by rfl)]
  exact BitVec.extractLsb'_eq_self

theorem encode_adcStart_fields {w : Word} (hop : opcodeOf w = 2#4) (reserved : w.extractLsb' 8 20 = 0#20) :
    encode (.adcStart (w.extractLsb' 0 8)) = w := by
  simp only [encode]
  rw [← hop, ← reserved, opcodeOf]
  iterate 2 rw [BitVec.extractLsb'_append_extractLsb'_eq_extractLsb' (by rfl)]
  exact BitVec.extractLsb'_eq_self

theorem encode_pwmCfg_fields {w : Word} (hop : opcodeOf w = 3#4) (reserved : w.extractLsb' 16 12 = 0#12) :
    encode (.pwmCfg (w.extractLsb' 0 16)) = w := by
  simp only [encode]
  rw [← hop, ← reserved, opcodeOf]
  iterate 2 rw [BitVec.extractLsb'_append_extractLsb'_eq_extractLsb' (by rfl)]
  exact BitVec.extractLsb'_eq_self

theorem encode_pwmSetDuty_fields {w : Word} (hop : opcodeOf w = 4#4) :
    encode (.pwmSetDuty (w.extractLsb' 0 28)) = w := by
  simp only [encode]
  rw [← hop, opcodeOf]
  exact BitVec.extractLsb'_append_extractLsb'

/-- Settles O2: the fields the decoder reads, with the opcode and the reserved fields it checks, are the whole word. -/
theorem encodeOfDecodeIsIdentity : Obligations.EncodeOfDecodeIsIdentity := by
  intro w i h
  rcases decode_cases w with ⟨hop, hd⟩ | ⟨hop, hd⟩ | ⟨hop, hd⟩ | ⟨hop, hd⟩ | ⟨hop, hd⟩ | ⟨hop, hd⟩ <;> rw [hd] at h
  · obtain ⟨reserved, rfl⟩ := guarded_eq_ok_iff.1 h
    exact encode_nop_fields hop reserved
  · obtain ⟨⟨high, low⟩, rfl⟩ := guarded_eq_ok_iff.1 h
    exact encode_adcCfg_fields hop high low
  · obtain ⟨reserved, rfl⟩ := guarded_eq_ok_iff.1 h
    exact encode_adcStart_fields hop reserved
  · obtain ⟨reserved, rfl⟩ := guarded_eq_ok_iff.1 h
    exact encode_pwmCfg_fields hop reserved
  · obtain rfl := Except.ok.inj h
    exact encode_pwmSetDuty_fields hop
  · cases h

/-! The rows of the opcode map. -/

/-- The command of a mnemonic whose operands are the fields of a word (R91, R92). -/
def Mnemonic.read (w : Word) : Mnemonic → Instr
  | .nop => .nop
  | .adcCfg => .adcCfg (w.extractLsb' 0 8) (w.extractLsb' 8 1) (w.extractLsb' 9 1) (w.extractLsb' 16 8)
  | .adcStart => .adcStart (w.extractLsb' 0 8)
  | .pwmCfg => .pwmCfg (w.extractLsb' 0 16)
  | .pwmSetDuty => .pwmSetDuty (w.extractLsb' 0 28)

@[simp] theorem mnemonic_read (m : Mnemonic) (w : Word) : (m.read w).mnemonic = m := by
  cases m <;> rfl

/-- A field the row's mask covers has in a word of the row the value the row's match gives it. -/
theorem field_of_selects {row : OpcodeRow} {w : Word} (sel : row.selects w = true) (start len : Nat)
    (fixed : row.mask.extractLsb' start len = BitVec.allOnes len) :
    w.extractLsb' start len = row.value.extractLsb' start len := by
  have masked : w &&& row.mask = row.value := eq_of_beq sel
  rw [← masked, BitVec.extractLsb'_and, fixed, BitVec.and_allOnes]

/-- A word of a row decodes, to the command of the row's mnemonic with the word's fields. -/
theorem decode_of_selects {row : OpcodeRow} {w : Word} (mem : row ∈ opcodeMap) (sel : row.selects w = true) :
    decode w = .ok (row.mnemonic.read w) := by
  simp only [opcodeMap, List.mem_cons, List.not_mem_nil, or_false] at mem
  rcases mem with rfl | rfl | rfl | rfl | rfl
  · have hop : opcodeOf w = 0#4 := field_of_selects sel 28 4 (by decide)
    have reserved : w.extractLsb' 0 28 = 0#28 := field_of_selects sel 0 28 (by decide)
    simp [decode, hop, decodeNop, reserved, Mnemonic.read]
  · have hop : opcodeOf w = 1#4 := field_of_selects sel 28 4 (by decide)
    have high : w.extractLsb' 24 4 = 0#4 := field_of_selects sel 24 4 (by decide)
    have low : w.extractLsb' 10 6 = 0#6 := field_of_selects sel 10 6 (by decide)
    simp [decode, hop, decodeAdcCfg, high, low, Mnemonic.read]
  · have hop : opcodeOf w = 2#4 := field_of_selects sel 28 4 (by decide)
    have reserved : w.extractLsb' 8 20 = 0#20 := field_of_selects sel 8 20 (by decide)
    simp [decode, hop, decodeAdcStart, reserved, Mnemonic.read]
  · have hop : opcodeOf w = 3#4 := field_of_selects sel 28 4 (by decide)
    have reserved : w.extractLsb' 16 12 = 0#12 := field_of_selects sel 16 12 (by decide)
    simp [decode, hop, decodePwmCfg, reserved, Mnemonic.read]
  · have hop : opcodeOf w = 4#4 := field_of_selects sel 28 4 (by decide)
    simp [decode, hop, decodePwmSetDuty, Mnemonic.read]

/-- The word of a command is a word of the row with the command's mnemonic. -/
theorem exists_row_of_encode (i : Instr) :
    ∃ row ∈ opcodeMap, row.mnemonic = i.mnemonic ∧ row.selects (encode i) = true := by
  have matched : Laws.EncodeMatchesRow.Statement i := by
    cases i with
    | nop => exact Laws.EncodeMatchesRow.nop
    | adcCfg ch cont avg count => exact Laws.EncodeMatchesRow.adcCfg ch cont avg count
    | adcStart ch => exact Laws.EncodeMatchesRow.adcStart ch
    | pwmCfg period => exact Laws.EncodeMatchesRow.pwmCfg period
    | pwmSetDuty duty => exact Laws.EncodeMatchesRow.pwmSetDuty duty
  obtain ⟨row, mem, same, sel⟩ := matched
  exact ⟨row, mem, same, beq_of_eq sel⟩

/-- A field of a word from its bits. -/
theorem extractLsb'_eq_of_getLsbD {w : Word} {start len : Nat} {x : BitVec len}
    (h : ∀ k < len, w.getLsbD (start + k) = x.getLsbD k) : w.extractLsb' start len = x :=
  BitVec.eq_of_getLsbD_eq fun k hk => by simp [hk, h]

/-- The operand fields of a command's word are the command's operands. -/
theorem read_encode (i : Instr) : i.mnemonic.read (encode i) = i := by
  cases i with
  | nop => rfl
  | adcCfg ch cont avg count =>
    have bits := getLsbD_encode_adcCfg ch cont avg count
    simp only [Instr.mnemonic, Mnemonic.read, Instr.adcCfg.injEq]
    refine ⟨?_, ?_, ?_, ?_⟩ <;> (refine extractLsb'_eq_of_getLsbD fun k hk => ?_; rw [bits])
    · simp [hk]
    · interval_cases k; rfl
    · interval_cases k; rfl
    · interval_cases k <;> rfl
  | adcStart ch => exact congrArg Instr.adcStart (BitVec.extractLsb'_append_eq_right (a := 0x200000#24))
  | pwmCfg period => exact congrArg Instr.pwmCfg (BitVec.extractLsb'_append_eq_right (a := 0x3000#16))
  | pwmSetDuty duty => exact congrArg Instr.pwmSetDuty (BitVec.extractLsb'_append_eq_right (a := 0x4#4))

/-- Settles O1: the word of a command is of the command's row, so it decodes to its own fields, which are the operands. -/
theorem decodeOfEncodeIsIdentity : Obligations.DecodeOfEncodeIsIdentity := by
  intro i
  obtain ⟨row, mem, same, sel⟩ := exists_row_of_encode i
  rw [decode_of_selects mem sel, same, read_encode]

theorem decode_eq_ok_iff {w : Word} {i : Instr} : decode w = .ok i ↔ encode i = w :=
  ⟨encodeOfDecodeIsIdentity w i, fun h => h ▸ decodeOfEncodeIsIdentity i⟩

/-- Settles O5: the encoder computes the words, and decoding undoes it. -/
theorem workedEncodingsDecode : Obligations.WorkedEncodingsDecode :=
  List.Forall.imp (p := fun p : Instr × Word => encode p.1 = p.2) (fun _ h => ⟨h, decode_eq_ok_iff.2 h⟩)
    (by simp only [List.Forall]; decide)

/-- No two rows have one mnemonic. -/
theorem row_eq_of_mnemonic_eq : ∀ row ∈ opcodeMap, ∀ row' ∈ opcodeMap, row'.mnemonic = row.mnemonic → row' = row := by
  decide

/-- Settles O3: a word that decodes is the encoding of its command, so a word of that command's row, and by its mnemonic of no
other; a word of any row decodes. -/
theorem eachWordMatchesOneRowOrIsIllegal : Obligations.EachWordMatchesOneRowOrIsIllegal := by
  intro w
  cases hd : decode w with
  | ok i =>
    obtain ⟨row, mem, same, sel⟩ := exists_row_of_encode i
    rw [decode_eq_ok_iff.1 hd] at sel
    refine .inl ⟨row, mem, sel, fun row' mem' sel' => ?_, i, rfl, same.symm⟩
    have decoded : i = row'.mnemonic.read w := Except.ok.inj (hd.symm.trans (decode_of_selects mem' sel'))
    exact row_eq_of_mnemonic_eq row mem row' mem' (by rw [same, decoded, mnemonic_read])
  | error e =>
    refine .inr ⟨fun row mem => ?_, e, rfl⟩
    by_contra sel
    rw [decode_of_selects mem (by simpa using sel)] at hd
    cases hd

/-! The assembler. -/

theorem wellFormed_iff {a : AsmCommand} :
    a.wellFormed = true ↔ List.Forall₂ (fun n width => n < 2 ^ width) a.operands a.mnemonic.operandWidths := by
  simp [AsmCommand.wellFormed, AsmCommand.arityOk, AsmCommand.operandsFit, List.forall₂_iff_zip]

@[simp] theorem wellFormed_asm (i : Instr) : i.asm.wellFormed = true := by
  rw [wellFormed_iff]
  cases i with
  | nop => exact .nil
  | adcCfg ch cont avg count => exact .cons ch.isLt (.cons cont.isLt (.cons avg.isLt (.cons count.isLt .nil)))
  | adcStart ch => exact .cons ch.isLt .nil
  | pwmCfg period => exact .cons period.isLt .nil
  | pwmSetDuty duty => exact .cons duty.isLt .nil

theorem assemble_asm (i : Instr) : assemble i.asm = some i := by
  rw [assemble, if_pos (wellFormed_asm i)]
  cases i <;> simp [Instr.asm]

/-- Numbers as many as the fields and fitting them are the operands of a command. -/
theorem exists_asm_of_wellFormed {a : AsmCommand} (h : a.wellFormed = true) : ∃ i : Instr, i.asm = a := by
  obtain ⟨m, ops⟩ := a
  have fits := wellFormed_iff.1 h
  cases m with
  | nop =>
    obtain ⟨⟩ := fits
    exact ⟨.nop, rfl⟩
  | adcCfg =>
    obtain _ | ⟨hch, _ | ⟨hcont, _ | ⟨havg, _ | ⟨hcount, ⟨⟩⟩⟩⟩⟩ := fits
    exact ⟨.adcCfg (.ofNatLT _ hch) (.ofNatLT _ hcont) (.ofNatLT _ havg) (.ofNatLT _ hcount), rfl⟩
  | adcStart =>
    obtain _ | ⟨hch, ⟨⟩⟩ := fits
    exact ⟨.adcStart (.ofNatLT _ hch), rfl⟩
  | pwmCfg =>
    obtain _ | ⟨hperiod, ⟨⟩⟩ := fits
    exact ⟨.pwmCfg (.ofNatLT _ hperiod), rfl⟩
  | pwmSetDuty =>
    obtain _ | ⟨hduty, ⟨⟩⟩ := fits
    exact ⟨.pwmSetDuty (.ofNatLT _ hduty), rfl⟩

/-- Settles O6: a written command is accepted only if well formed, which is to be the written form of a command, and of that
form the assembler answers the command. -/
theorem assemblerAcceptsWhatFits : Obligations.AssemblerAcceptsWhatFits := by
  refine ⟨fun a => ?_, fun a i ha => ?_, assemble_asm⟩
  · by_cases h : a.wellFormed = true
    · obtain ⟨i, rfl⟩ := exists_asm_of_wellFormed h
      rw [assemble_asm, h, Option.isSome_some]
    · simp [assemble, h]
  · have h : a.wellFormed = true := by
      by_contra ill
      rw [assemble, if_neg ill] at ha
      cases ha
    obtain ⟨j, rfl⟩ := exists_asm_of_wellFormed h
    rw [Option.some.inj ((assemble_asm j).symm.trans ha)]

end Sys2Proof
end

section
/-! PROOFS. What the host's words come to as steps (spec/30_encoding.md R101, R102; spec/60_exceptions.md R220, R238): which words
are illegal and how one is answered, and that every step of every agent completes, a host step alone leaving a response. -/

namespace Sys2Proof.Machine

/-- Settles O4: by opcode, each format's decoder refuses exactly on its reserved fields; the answer is `finish` with the code. -/
theorem illegalWordIsRejected : Obligations.IllegalWordIsRejected := by
  intro w
  refine ⟨?_, fun s e ready hs hd => ?_⟩
  · change (5 ≤ (opcodeOf w).toNat ∨ ((opcodeOf w).toNat = 0 ∧ _) ∨ ((opcodeOf w).toNat = 1 ∧ _) ∨
      ((opcodeOf w).toNat = 2 ∧ _) ∨ ((opcodeOf w).toNat = 3 ∧ _)) ↔ _
    rcases decode_cases w with ⟨hop, hd⟩ | ⟨hop, hd⟩ | ⟨hop, hd⟩ | ⟨hop, hd⟩ | ⟨hop, hd⟩ | ⟨hop, hd⟩ <;> rw [hd]
    · rw [decodeNop, guarded_eq_error_iff]
      simp [hop]
    · rw [decodeAdcCfg, guarded_eq_error_iff, not_and_or]
      simp [hop]
    · rw [decodeAdcStart, guarded_eq_error_iff]
      simp [hop]
    · rw [decodePwmCfg, guarded_eq_error_iff]
      simp [hop]
    · simp [hop, decodePwmSetDuty]
    · exact iff_of_true (.inl hop) ⟨_, rfl⟩
  · exact (step_of_illegal hs hd).trans (finish_of_ready (s := s.take) ready _ _)

/-- A host step ends in `finish` with a response. -/
theorem step_of_host {s : State} {cmd : Word} (hs : s.nextEvent = .host cmd) :
    ∃ c r, step s = finish (some c) r s.take := by
  cases hd : decode cmd with
  | ok i =>
    obtain ⟨c, _, r, hx⟩ := exec_eq_finish i s.take
    exact ⟨c, r, (step_of_decodes hs hd).trans hx⟩
  | error e => exact ⟨.errIllegal, s.regs, step_of_illegal hs hd⟩

/-- Settles O20: every step ends in `finish`, a host step with a response and another agent's with none. -/
theorem everyStepCompletes : Obligations.EveryStepCompletes := by
  intro s ready
  cases hs : s.nextEvent with
  | host cmd =>
    obtain ⟨c, r, hx⟩ := step_of_host hs
    exact ⟨_, hx.trans (finish_of_ready (s := s.take) ready _ _), ready, by simp⟩
  | internal a =>
    have hx := (step_of_internal hs).trans (runInternal_eq_finish a s.take)
    exact ⟨_, hx.trans (finish_of_ready (s := s.take) ready _ _), ready, by simp⟩

end Sys2Proof.Machine
end

section
/-! PROOFS. The host commands (spec/40_host_commands.md R120 to R127): one equation per outcome of a command, in the order of its
checks, and the words that are the command. -/

namespace Sys2Proof.Machine

/-! `NOP`. -/

/-- Settles O7: a word with the opcode of `NOP` and no bit set below it is the encoding of `NOP`, and any other is illegal. -/
theorem nopAnswersOk : Obligations.NopAnswersOk := by
  refine ⟨fun s ready => finish_of_ready ready _ _, decode_eq_ok_iff.2 (by decide), fun w hop other => ?_⟩
  have reserved : w.extractLsb' 0 28 ≠ 0#28 := fun zero => other (encode_nop_fields hop zero).symm
  exact (illegalWordIsRejected w).1.1 (.inr (.inl ⟨by rw [hop]; rfl, reserved⟩))

/-! `ADC_CFG`. -/

section
variable {s : State} {ch : BitVec 8} {cont avg : Bit} {count : BitVec 8}

theorem execAdcCfg_of_on (on : AdcCtrl.pwr s.regs.adcCtrl = 1#1) : execAdcCfg ch cont avg count s = raise .rejSeq s :=
  if_pos on

theorem execAdcCfg_of_gt (off : AdcCtrl.pwr s.regs.adcCtrl = 0#1) (illegal : 5 < ch.toNat) :
    execAdcCfg ch cont avg count s = raise .rejChannel s := by
  simp [execAdcCfg, off, channelOutOfRange_iff.2 illegal]

/-- Past the channel check the depth decides (R121 checks 3 and 4). -/
theorem execAdcCfg_of_le (off : AdcCtrl.pwr s.regs.adcCtrl = 0#1) (legal : ch.toNat ≤ 5) :
    execAdcCfg ch cont avg count s =
      (avgsField avg count).elim (raise .rejAvg s) fun d => accept (configureSampler ch cont avg d s.regs) s := by
  have inRange : ¬ channelOutOfRange ch = true := mt channelOutOfRange_iff.1 (Nat.not_lt.2 legal)
  simp only [execAdcCfg, off, inRange]
  cases avgsField avg count <;> rfl

theorem execAdcCfg_of_depth (off : AdcCtrl.pwr s.regs.adcCtrl = 0#1) (legal : ch.toNat ≤ 5) {d : BitVec 2}
    (depth : avgsField avg count = some d) :
    execAdcCfg ch cont avg count s = accept (configureSampler ch cont avg d s.regs) s := by
  rw [execAdcCfg_of_le off legal, depth, Option.elim_some]

theorem execAdcCfg_of_no_depth (off : AdcCtrl.pwr s.regs.adcCtrl = 0#1) (legal : ch.toNat ≤ 5)
    (noDepth : count.toNat ∉ legalCounts ∨ avg = 1#1 ∧ count = 0#8) :
    execAdcCfg ch cont avg count s = raise .rejAvg s := by
  rw [execAdcCfg_of_le off legal, avgsField_eq_none_iff.2 noDepth, Option.elim_none]

/-- The depth code is 0 with averaging off, and with averaging on that of the count (R26). -/
theorem avgs_of_avgsField {d : BitVec 2} (depth : avgsField avg count = some d) :
    (avg = 0#1 → d = 0b00#2) ∧ (avg = 1#1 → count = 4#8 → d = 0b00#2) ∧ (avg = 1#1 → count = 8#8 → d = 0b01#2) ∧
      (avg = 1#1 → count = 16#8 → d = 0b10#2) ∧ (avg = 1#1 → count = 32#8 → d = 0b11#2) := by
  have code {x : BitVec 2} (hx : avgsField avg count = some x) : d = x := Option.some.inj (depth.symm.trans hx)
  refine ⟨?_, ?_, ?_, ?_, ?_⟩
  · rintro rfl; exact avgsField_of_off depth
  · rintro rfl rfl; exact code (by decide)
  · rintro rfl rfl; exact code (by decide)
  · rintro rfl rfl; exact code (by decide)
  · rintro rfl rfl; exact code (by decide)

end

/-- Settles O8: the fields of a word with zero reserved bits are the operands; the outcome is that of the first check that
fails, or the configured control word with the depth code of the operands. -/
theorem adcCfgConfiguresOrRejects : Obligations.AdcCfgConfiguresOrRejects := by
  refine ⟨fun w hop => ⟨fun high low => decode_eq_ok_iff.2 (encode_adcCfg_fields hop high low), fun reserved => ?_⟩,
    fun s ch cont avg count ready => ⟨fun off legal counted used => ?_, fun on => ?_, fun off illegal => ?_,
      fun off legal uncounted => ?_, fun off legal on zero => ?_⟩⟩
  · exact (illegalWordIsRejected w).1.1 (.inr (.inr (.inl ⟨by rw [hop]; rfl, reserved⟩)))
  · have hasDepth : avgsField avg count ≠ none :=
      mt avgsField_eq_none_iff.1 (not_or.2 ⟨not_not.2 counted, used⟩)
    obtain ⟨d, depth⟩ := Option.ne_none_iff_exists'.1 hasDepth
    obtain ⟨pwr, lpwr, lsmp, m16, ien, hcont, avge, avgs, chan⟩ := adcCtrl_configured_fields cont avg d (channelField ch)
    refine ⟨AdcCtrl.configured cont avg d (channelField ch), ?_, pwr, lpwr, lsmp, m16, ien, hcont, avge, ?_⟩
    · exact (execAdcCfg_of_depth off legal depth).trans (finish_of_ready ready _ _)
    · obtain ⟨unused, four, eight, sixteen, thirtyTwo⟩ := avgs_of_avgsField depth
      rw [avgs, chan]
      exact ⟨unused, four, eight, sixteen, thirtyTwo, channelField_toNat legal⟩
  · exact (execAdcCfg_of_on on).trans (finish_of_ready ready _ _)
  · exact (execAdcCfg_of_gt off illegal).trans (finish_of_ready ready _ _)
  · exact (execAdcCfg_of_no_depth off legal (.inl uncounted)).trans (finish_of_ready ready _ _)
  · exact (execAdcCfg_of_no_depth off legal (.inr ⟨on, zero⟩)).trans (finish_of_ready ready _ _)

/-! `ADC_START`. -/

/-- The table of R30 on the channels it is defined for. -/
theorem selCode_of_le {ch : BitVec 8} (legal : ch.toNat ≤ 5) :
    selCode ch = some (if ch = 0#8 then 0x8#4 else if ch = 1#8 then 0x9#4 else if ch = 2#8 then 0xC#4
      else if ch = 3#8 then 0xD#4 else if ch = 4#8 then 0xB#4 else 0xF#4) := by
  revert ch; decide

section
variable {s : State} {ch : BitVec 8}

theorem execAdcStart_of_off (off : AdcCtrl.pwr s.regs.adcCtrl = 0#1) : execAdcStart ch s = raise .rejSeq s :=
  if_pos off

theorem execAdcStart_of_gt (on : AdcCtrl.pwr s.regs.adcCtrl = 1#1) (illegal : 5 < ch.toNat) :
    execAdcStart ch s = raise .rejChannel s := by
  simp [execAdcStart, on, selCode_eq_none_iff.2 illegal]

/-- A legal channel is the configured one as a number exactly where its field is. -/
theorem channelField_eq_iff {c : BitVec 3} (legal : ch.toNat ≤ 5) : channelField ch = c ↔ ch.toNat = c.toNat := by
  rw [← BitVec.toNat_inj, channelField_toNat legal]

/-- Past the channel check the configured channel decides (R122 check 3). -/
theorem execAdcStart_of_le (on : AdcCtrl.pwr s.regs.adcCtrl = 1#1) (legal : ch.toNat ≤ 5) {sel : BitVec 4}
    (code : selCode ch = some sel) :
    execAdcStart ch s =
      if ch.toNat = (AdcCtrl.ch s.regs.adcCtrl).toNat then accept (startConversion sel s.regs) s else raise .rejSeq s := by
  simp [execAdcStart, on, code, channelField_eq_iff legal]

end

/-- Settles O9: the outcome is that of the first check that fails, or the start with the channel's code of the table. -/
theorem adcStartTriggersOrRejects : Obligations.AdcStartTriggersOrRejects := by
  refine ⟨fun w hop reserved => decode_eq_ok_iff.2 (encode_adcStart_fields hop reserved),
    fun s ch ready => ⟨fun on legal same => ?_, fun off => ?_, fun on illegal => ?_, fun on legal other => ?_⟩⟩
  · exact ((execAdcStart_of_le on legal (selCode_of_le legal)).trans (if_pos same)).trans (finish_of_ready ready _ _)
  · exact (execAdcStart_of_off off).trans (finish_of_ready ready _ _)
  · exact (execAdcStart_of_gt on illegal).trans (finish_of_ready ready _ _)
  · exact ((execAdcStart_of_le on legal (selCode_of_le legal)).trans (if_neg other)).trans (finish_of_ready ready _ _)

/-! `PWM_CFG`. -/

section
variable {s : State} {period : Half}

theorem execPwmCfg_of_run (counting : PwmCtrl.run s.regs.pwmCtrl = 1#1) : execPwmCfg period s = raise .rejSeq s :=
  if_pos counting

theorem execPwmCfg_of_stopped (stopped : PwmCtrl.run s.regs.pwmCtrl = 0#1) :
    execPwmCfg period s =
      if period = 0#16 then raise .rejPeriod s else accept (configureTimer period s.regs) s := by
  simp [execPwmCfg, stopped]

end

/-- Settles O10: the outcome is that of the first check that fails, or the timer configured with the control word 0x1C7. -/
theorem pwmCfgConfiguresOrRejects : Obligations.PwmCfgConfiguresOrRejects := by
  refine ⟨fun w hop reserved => decode_eq_ok_iff.2 (encode_pwmCfg_fields hop reserved),
    fun s period ready => ⟨fun stopped positive => ?_, fun counting => ?_, fun stopped zero => ?_⟩⟩
  · refine ⟨PwmCtrl.configured, period - 1#16, ?_, by bv_omega, by decide⟩
    exact ((execPwmCfg_of_stopped stopped).trans (if_neg positive)).trans (finish_of_ready ready _ _)
  · exact (execPwmCfg_of_run counting).trans (finish_of_ready ready _ _)
  · exact ((execPwmCfg_of_stopped stopped).trans (if_pos zero)).trans (finish_of_ready ready _ _)

/-! `PWM_SETDUTY`. -/

theorem execPwmSetDuty_of_gt {duty : BitVec 28} (s : State) (beyond : 65535 < duty.toNat) :
    execPwmSetDuty duty s = raise .errDutyRange s :=
  if_pos (dutyOutOfRange_iff.2 beyond)

/-- Settles O11: the duty field of a word is all of it below the opcode, and its low half is what is written. -/
theorem setDutyWritesOrRejects : Obligations.SetDutyWritesOrRejects :=
  ⟨fun _ hop => decode_eq_ok_iff.2 (encode_pwmSetDuty_fields hop),
    fun s _ ready => ⟨fun fits => (execPwmSetDuty_of_le s fits).trans (finish_of_ready ready _ _),
      fun beyond => (execPwmSetDuty_of_gt s beyond).trans (finish_of_ready ready _ _)⟩⟩

/-! The sequence of the commands. -/

/-- Settles O16: of the outcomes of each command only its acceptance answers `OK`. -/
theorem acceptedInSequenceOnly : Obligations.AcceptedInSequenceOnly := by
  refine fun s t ok => ⟨fun ch cont avg count h => ?_, fun ch h => ?_, fun period h => ?_⟩
  · obtain ⟨_, ⟨_, rfl⟩ | ⟨_, _, rfl⟩ | ⟨_, _, _, rfl⟩ | ⟨off, _, d, _, rfl⟩⟩ := execAdcCfg_cases h
    · cases ok
    · cases ok
    · cases ok
    · exact ⟨off, (adcCtrl_configured_fields cont avg d (channelField ch)).1⟩
  · obtain ⟨_, ⟨_, rfl⟩ | ⟨on, _⟩ | ⟨on, _⟩ | ⟨on, _⟩⟩ := execAdcStart_cases h
    · cases ok
    · exact on
    · exact on
    · exact on
  · obtain ⟨_, ⟨_, rfl⟩ | ⟨_, _, rfl⟩ | ⟨stopped, _, rfl⟩⟩ := execPwmCfg_cases h
    · cases ok
    · cases ok
    · exact ⟨stopped, run_configured⟩

end Sys2Proof.Machine
end

section
/-! PROOFS. The steps of the sample path (spec/41_sampler_and_handoff.md R150 to R161): one rule per step for what it leaves
where it is enabled, when it is enabled, and what the handshake cycle says of the four handoff steps together. -/

namespace Sys2Proof.Machine

/-! The invariant of the handoff. -/

/-- Settles O28: the handshake bits are copied around the cycle, and a capture makes `SAMPLE` the held value. -/
theorem stepKeepsHandoffInv : Obligations.StepKeepsHandoffInv :=
  fun _ _ inv h => handoffInv_of_regsStep (step_regsStep h) inv

/-! The completion and the handler. -/

theorem irqService_of_irq {r : Regs} (requested : irq r = true) : internalStep .irqService r = some (takeInterrupt r) :=
  if_pos requested

theorem takeInterrupt_of_idle {r : Regs} (idle : r.req = r.ackS) :
    takeInterrupt r = launch r.result { r with coco := 0#1 } :=
  if_pos (cdcIdle_iff.2 idle)

theorem takeInterrupt_of_busy {r : Regs} (busy : r.req ≠ r.ackS) :
    takeInterrupt r = park r.result { r with coco := 0#1 } :=
  if_neg (mt cdcIdle_iff.1 busy)

@[simp] theorem takeInterrupt_coco (r : Regs) : (takeInterrupt r).coco = 0#1 := by
  by_cases idle : r.req = r.ackS
  · rw [takeInterrupt_of_idle idle, launch_coco]
  · rw [takeInterrupt_of_busy idle, park_coco]

/-- The registers after the completion of a conversion with the result `v` (R150). -/
def completed (v : Half) (r : Regs) : Regs :=
  { r with result := v, coco := 1#1, conv := AdcCtrl.cont r.adcCtrl }

theorem convComplete_of_conv {r : Regs} (v : Half) (converting : r.conv = 1#1) :
    internalStep (.convComplete v) r = some (completed v r) :=
  if_pos converting

/-- Settles O24: the two branches of the completion. -/
theorem completionDeliversResult : Obligations.CompletionDeliversResult :=
  fun _ v => ⟨convComplete_of_conv v, fun still => if_neg (by simp [still])⟩

/-- Settles O25: a requested interrupt is taken, and its publish launches or parks. -/
theorem handlerPublishesResult : Obligations.HandlerPublishesResult := by
  refine fun r => ⟨fun requested => ⟨fun idle => ?_, fun busy => ?_⟩, fun unrequested => if_neg (mt irq_iff.1 unrequested)⟩
  · rw [irqService_of_irq (irq_iff.2 requested), takeInterrupt_of_idle idle]
    rfl
  · rw [irqService_of_irq (irq_iff.2 requested), takeInterrupt_of_busy busy]
    rfl

/-! The handoff steps: what each leaves, and when it is enabled. -/

theorem cdcRelaunch_of_waiting {r : Regs} (idle : r.req = r.ackS) (waits : r.pendV = 1#1) :
    internalStep .cdcRelaunch r = some (launch r.pend r) :=
  if_pos ⟨cdcIdle_iff.2 idle, waits⟩

theorem cdcRelaunch_eq_none {r : Regs} (nothing : ¬ (r.req = r.ackS ∧ r.pendV = 1#1)) :
    internalStep .cdcRelaunch r = none :=
  if_neg (by rwa [cdcIdle_iff])

/-- A guarded step is enabled exactly where its guard holds. -/
theorem enabled_iff_of_guard {a : InternalStep} {r t : Regs} {p : Prop} [Decidable p]
    (guarded : internalStep a r = if p then some t else none) : enabled a r = true ↔ p := by
  rw [enabled, guarded]
  split
  · next holds => exact iff_of_true rfl holds
  · next fails => exact iff_of_false Bool.false_ne_true fails

theorem enabled_cdcRelaunch_iff {r : Regs} : enabled .cdcRelaunch r = true ↔ cdcIdle r = true ∧ r.pendV = 1#1 :=
  enabled_iff_of_guard rfl

theorem enabled_cdcSyncReq_iff {r : Regs} : enabled .cdcSyncReq r = true ↔ r.reqM ≠ r.req :=
  enabled_iff_of_guard rfl

theorem enabled_cdcCapture_iff {r : Regs} : enabled .cdcCapture r = true ↔ r.reqM ≠ r.ack :=
  enabled_iff_of_guard rfl

theorem enabled_cdcSyncAck_iff {r : Regs} : enabled .cdcSyncAck r = true ↔ r.ackS ≠ r.ack :=
  enabled_iff_of_guard rfl

/-! The handshake cycle. -/

/-- Around the cycle either all bits agree, or exactly one has not yet copied the one before it (R160). -/
theorem handshakeCycle_count {q m a s : Bit} (h : (q, m, a, s) ∈ handshakeCycle) :
    [q == s, m != q, m != a, s != a].count true = 1 := by
  revert q m a s; decide

/-- An acknowledge that is due is the last move of a transfer: its request has been captured. -/
theorem handshakeCycle_acknowledged {q m a s : Bit} (h : (q, m, a, s) ∈ handshakeCycle) (due : s ≠ a) : q = a := by
  revert q m a s; decide

/-- Settles O29: what enables the four steps are the four comparisons of `handshakeCycle_count`. -/
theorem oneHandoffStepIsEnabled : Obligations.OneHandoffStepIsEnabled := by
  refine fun r inv => ⟨?_, enabled_cdcRelaunch_iff⟩
  have syncReq : enabled .cdcSyncReq r = (r.reqM != r.req) := by rw [Bool.eq_iff_iff, enabled_cdcSyncReq_iff, bne_iff_ne]
  have capture : enabled .cdcCapture r = (r.reqM != r.ack) := by rw [Bool.eq_iff_iff, enabled_cdcCapture_iff, bne_iff_ne]
  have syncAck : enabled .cdcSyncAck r = (r.ackS != r.ack) := by rw [Bool.eq_iff_iff, enabled_cdcSyncAck_iff, bne_iff_ne]
  rw [syncReq, capture, syncAck]
  exact handshakeCycle_count inv.1

/-- While a transfer is in flight no step but `RESET` launches, so none changes `HOLD`. -/
theorem hold_of_regsStep {e : Event} {r t : Regs} (h : RegsStep e r t) (busy : r.req ≠ r.ackS)
    (noReset : e ≠ .internal .reset) : t.hold = r.hold := by
  cases h with
  | irqLaunch _ _ idle => exact absurd idle busy
  | cdcRelaunch _ idle => exact absurd idle busy
  | reset he => exact absurd he noReset
  | _ => rfl

/-- Settles O30: at idle all bits agree, so that nothing asks for a capture; in flight nothing launches. -/
theorem holdIsStableInFlight : Obligations.HoldIsStableInFlight := by
  refine fun s t inv h => ⟨fun idle => ?_, hold_of_regsStep (step_regsStep h)⟩
  obtain ⟨synced, captured⟩ := handshake_of_idle inv.1 idle
  exact ⟨synced, captured.trans synced, Bool.eq_false_iff.2 fun asked => enabled_cdcCapture_iff.1 asked captured.symm⟩

/-- Settles O26: the two branches of each step; a due acknowledge ends the transfer, and a service at idle leaves nothing
waiting. -/
theorem handoffStepsMoveTheValue : Obligations.HandoffStepsMoveTheValue := by
  refine fun r => ⟨fun ⟨idle, waits⟩ => cdcRelaunch_of_waiting idle waits, cdcRelaunch_eq_none,
    fun differ => if_pos differ, fun agree => if_neg (not_not_intro agree),
    fun differ => if_pos differ, fun agree => if_neg (not_not_intro agree),
    fun differ => if_pos differ, fun agree => if_neg (not_not_intro agree), fun inv due => ?_, fun idle requested => ?_⟩
  · exact ⟨{ r with ackS := r.ack }, if_pos due, cdcIdle_iff.2 (handshakeCycle_acknowledged inv.1 due)⟩
  · refine ⟨_, irqService_of_irq requested, Bool.eq_false_iff.2 fun relaunches => ?_⟩
    obtain ⟨_, waits⟩ := enabled_cdcRelaunch_iff.1 relaunches
    rw [takeInterrupt_of_idle idle] at waits
    exact absurd waits (by simp)

end Sys2Proof.Machine
end

section
/-! PROOFS. No invention in the sampler (spec/41_sampler_and_handoff.md R150, R152, R162): a completed result waits until the
handler takes it, is overwritten by the next one (R261), or is lost in a reset; the handler publishes nothing else. -/

namespace Sys2Proof.Machine

/-! One step. -/

/-- An enabled step of another agent that goes next leaves the registers it gives. -/
theorem regs_of_internal {s t : State} {a : InternalStep} {r : Regs} (h : step s = .next t)
    (next : s.nextEvent = .internal a) (gives : internalStep a s.regs = some r) : t.regs = r := by
  rw [step_of_internal next] at h
  obtain ⟨_, rfl⟩ := runInternal_eq_next.1 h
  simp [gives]

theorem publishesNext_eq_nil {s : State} (noPublish : s.nextEvent = .internal .irqService → irq s.regs = false) :
    publishesNext s = [] := by
  unfold publishesNext
  split
  · next service => exact if_neg (Bool.eq_false_iff.1 (noPublish service))
  · rfl

theorem completesNext_eq_value {s : State} {v : Half} (completes : s.nextEvent = .internal (.convComplete v))
    (converting : s.regs.conv = 1#1) : completesNext s = [v] := by
  simp [completesNext, completes, converting]

/-- A step in which the handler does not run leaves waiting the result that waited, or the one it completes, or none. -/
theorem unserved_sublist_of_regsStep {s : State} {t : Regs} (h : RegsStep s.nextEvent s.regs t)
    (noPublish : s.nextEvent = .internal .irqService → irq s.regs = false) :
    (unserved t).Sublist (unserved s.regs ++ completesNext s) := by
  cases h with
  | convComplete v completes converting =>
    rw [completesNext_eq_value completes converting]
    exact List.sublist_append_right _ _
  | irqLaunch service requested => simp [noPublish service] at requested
  | irqPark service requested => simp [noPublish service] at requested
  | reset => exact List.nil_sublist _
  | _ => exact List.sublist_append_left (unserved s.regs) _

/-- What a step publishes, before what it leaves waiting, waited before what it completes. -/
theorem published_unserved_sublist_of_step {s t : State} (h : step s = .next t) :
    (publishesNext s ++ unserved t.regs).Sublist (unserved s.regs ++ completesNext s) := by
  by_cases publishes : s.nextEvent = .internal .irqService ∧ irq s.regs = true
  · obtain ⟨service, requested⟩ := publishes
    have waiting : unserved s.regs = [s.regs.result] := if_pos (irq_iff.1 requested).1
    have served : unserved t.regs = [] := by
      rw [regs_of_internal h service (irqService_of_irq requested)]
      exact if_neg (by simp)
    rw [publishesNext_eq_result service requested, served, waiting]
    exact List.sublist_append_left _ _
  · have noPublish : s.nextEvent = .internal .irqService → irq s.regs = false :=
      fun service => Bool.eq_false_iff.2 fun requested => publishes ⟨service, requested⟩
    rw [publishesNext_eq_nil noPublish]
    exact unserved_sublist_of_regsStep (step_regsStep h) noPublish

/-! Any number of steps. -/

/-- Settles O32: by induction on the number of steps, what the first step leaves waiting is published later, after what it
publishes itself. -/
theorem publishedIsSublistOfCompleted : Obligations.PublishedIsSublistOfCompleted := by
  intro n
  induction n with
  | zero => exact fun _ _ => List.nil_sublist _
  | succ n ih =>
    intro s ready
    obtain ⟨t, first, ready'⟩ := step_completes ready
    have later := ih t ready'
    have now := published_unserved_sublist_of_step first
    rw [seenIn_succ first, seenIn_succ first, ← List.append_assoc]
    refine (later.append_left (publishesNext s)).trans ?_
    rw [← List.append_assoc]
    exact now.append_right _

end Sys2Proof.Machine
end

section
/-! PROOFS. The handoff under a schedule (spec/41_sampler_and_handoff.md R162, R163, spec/30_encoding.md R105): the turns of its
three synchronising steps deliver the held value, whichever of them is due. -/

namespace Sys2Proof.Machine

/-! Runs of a schedule. -/

/-- The registers after a step's turn: a step that is not enabled passes (log entry 2). -/
def afterTurn (r : Regs) (a : InternalStep) : Regs :=
  (internalStep a r).getD r

theorem afterTurn_of_enabled {r t : Regs} {a : InternalStep} (gives : internalStep a r = some t) : afterTurn r a = t := by
  rw [afterTurn, gives, Option.getD_some]

theorem afterTurn_of_not_enabled {r : Regs} {a : InternalStep} (passes : internalStep a r = none) : afterTurn r a = r := by
  rw [afterTurn, passes, Option.getD_none]

/-- A scheduled step of another agent takes its turn. -/
theorem step_of_scheduled {s : State} {a : InternalStep} {es : List Event} (ready : s.clocksReady = true)
    (scheduled : s.sched = .internal a :: es) : step s = .next { s.take with regs := afterTurn s.regs a } :=
  (step_of_internal ((nextStepIsScheduledOrFree s (.internal a) es).1 scheduled).1).trans
    (runInternal_eq_next.2 ⟨ready, rfl⟩)

/-- Scheduled steps of other agents take their turns one after the other. -/
theorem runSteps_of_scheduled (as : List InternalStep) {s : State} {rest : List Event} (ready : s.clocksReady = true)
    (scheduled : s.sched = as.map .internal ++ rest) :
    ∃ t, runSteps as.length s = .next t ∧ t.sched = rest ∧ t.regs = as.foldl afterTurn s.regs := by
  induction as generalizing s with
  | nil => exact ⟨s, rfl, scheduled, rfl⟩
  | cons a as ih =>
    have first := step_of_scheduled ready scheduled
    obtain ⟨t, later, left, regs⟩ := ih (s := { s.take with regs := afterTurn s.regs a }) ready (by simp [scheduled])
    exact ⟨t, runSteps_succ_eq_next.2 ⟨_, first, later⟩, left, regs⟩

/-! The delivery of the held value. -/

/-- The held value delivered: captured, with all handshake bits at `REQ`. -/
def deliver (r : Regs) : Regs :=
  { r with sample := r.hold, reqM := r.req, ack := r.req, ackS := r.req }

theorem handoffInv_deliver (r : Regs) : HandoffInv (deliver r) := by
  have agree : ∀ q : Bit, (q, q, q, q) ∈ handshakeCycle := by decide
  exact ⟨agree r.req, fun _ => rfl⟩

theorem afterTurn_cdcSyncReq (r : Regs) : afterTurn r .cdcSyncReq = { r with reqM := r.req } := by
  by_cases agree : r.reqM = r.req
  · have passes : internalStep .cdcSyncReq r = none := if_neg (not_not_intro agree)
    exact (afterTurn_of_not_enabled passes).trans (congrArg (fun b => { r with reqM := b }) agree)
  · exact afterTurn_of_enabled (if_pos agree)

theorem afterTurn_cdcSyncAck (r : Regs) : afterTurn r .cdcSyncAck = { r with ackS := r.ack } := by
  by_cases agree : r.ackS = r.ack
  · have passes : internalStep .cdcSyncAck r = none := if_neg (not_not_intro agree)
    exact (afterTurn_of_not_enabled passes).trans (congrArg (fun b => { r with ackS := b }) agree)
  · exact afterTurn_of_enabled (if_pos agree)

/-- A capture that is not due has been taken already: `SAMPLE` is the held value (R161). -/
theorem afterTurn_cdcCapture {r : Regs} (captured : r.ack = r.reqM → r.sample = r.hold) :
    afterTurn r .cdcCapture = { r with sample := r.hold, ack := r.reqM } := by
  by_cases agree : r.reqM = r.ack
  · have passes : internalStep .cdcCapture r = none := if_neg (not_not_intro agree)
    exact (afterTurn_of_not_enabled passes).trans
      (congrArg₂ (fun v b => { r with sample := v, ack := b }) (captured agree.symm) agree.symm)
  · exact afterTurn_of_enabled (if_pos agree)

/-- The turns of the three synchronising steps deliver the held value. -/
theorem afterTurns_deliver {r : Regs} (inv : HandoffInv r) :
    [.cdcSyncReq, .cdcCapture, .cdcSyncAck].foldl afterTurn r = deliver r := by
  simp only [List.foldl_cons, List.foldl_nil]
  rw [afterTurn_cdcSyncReq, afterTurn_cdcCapture inv.2, afterTurn_cdcSyncAck]
  rfl

/-- Relaunched where a value waits, and delivered again, the handoff has delivered the value published last. -/
theorem deliver_afterTurn_cdcRelaunch (r : Regs) :
    HandoffInv (afterTurn (deliver r) .cdcRelaunch) ∧ (afterTurn (deliver r) .cdcRelaunch).pendV = 0#1 ∧
      (afterTurn (deliver r) .cdcRelaunch).hold = newestPublished r := by
  by_cases waits : r.pendV = 1#1
  · rw [afterTurn_of_enabled (cdcRelaunch_of_waiting (r := deliver r) rfl waits), newestPublished, if_pos waits]
    exact ⟨handoffInv_launch (handoffInv_deliver r) rfl _, rfl, rfl⟩
  · rw [afterTurn_of_not_enabled (cdcRelaunch_eq_none (r := deliver r) fun relaunches => waits relaunches.2),
      newestPublished, if_neg waits]
    exact ⟨handoffInv_deliver r, bit_eq_zero_of_ne_one waits, rfl⟩

/-- Settles O34: the first three turns deliver the held value, and the last three the one that waited. -/
theorem handoffDeliversTheLastValue : Obligations.HandoffDeliversTheLastValue := by
  intro s rest ready inv scheduled
  obtain ⟨t, run, left, regs⟩ := runSteps_of_scheduled
    ([.cdcSyncReq, .cdcCapture, .cdcSyncAck] ++ .cdcRelaunch :: [.cdcSyncReq, .cdcCapture, .cdcSyncAck]) ready scheduled
  obtain ⟨inv', nothing, newest⟩ := deliver_afterTurn_cdcRelaunch s.regs
  rw [List.foldl_append, List.foldl_cons, afterTurns_deliver inv, afterTurns_deliver inv'] at regs
  refine ⟨t, run, left, ?_, ?_, ?_⟩ <;> rw [regs]
  · exact cdcIdle_iff.2 rfl
  · exact nothing
  · exact newest

/-- At idle, with the interrupt enabled, a completion and the service of it launch its result. -/
theorem afterTurns_complete_service {r : Regs} (v : Half) (idle : r.req = r.ackS) (converting : r.conv = 1#1)
    (ien : AdcCtrl.ien r.adcCtrl = 1#1) (irqEn : r.irqEn = 1#1) :
    [.convComplete v, .irqService].foldl afterTurn r = launch v { completed v r with coco := 0#1 } := by
  have requested : irq (completed v r) = true := irq_iff.2 ⟨rfl, ien, irqEn⟩
  have idle' : (completed v r).req = (completed v r).ackS := idle
  simp only [List.foldl_cons, List.foldl_nil]
  rw [afterTurn_of_enabled (convComplete_of_conv v converting), afterTurn_of_enabled (irqService_of_irq requested),
    takeInterrupt_of_idle idle']
  rfl

/-- Settles O35: the handler launches the completed result, and the three turns deliver it. -/
theorem promptHandoffIsTheSoftwareCell : Obligations.PromptHandoffIsTheSoftwareCell := by
  intro s v rest ready inv idle converting ien irqEn scheduled
  obtain ⟨t, run, left, regs⟩ := runSteps_of_scheduled
    ([.convComplete v, .irqService] ++ [.cdcSyncReq, .cdcCapture, .cdcSyncAck]) ready scheduled
  have idle : s.regs.req = s.regs.ackS := cdcIdle_iff.1 idle
  have launched : HandoffInv (launch v { completed v s.regs with coco := 0#1 }) := handoffInv_launch inv idle v
  rw [List.foldl_append, afterTurns_complete_service v idle converting ien irqEn, afterTurns_deliver launched] at regs
  refine ⟨t, run, left, ?_, ?_, ?_, ?_⟩ <;> rw [regs]
  · rfl
  · exact cdcIdle_iff.2 rfl
  · rfl
  · rfl

end Sys2Proof.Machine
end

section
/-! PROOFS. The loop follows a sample that no longer changes (spec/42_scaler_and_loop.md R185 to R190,
spec/70_reset_and_hazards.md R272): the iteration that runs when the last value arrives may carry an older sample; from its end
on every iteration carries the last one, and the next apply writes its scale. -/

namespace Sys2Proof.Machine

/-! What an iteration carries. -/

/-- The iteration in progress, if any, is one of the given period and sample. -/
structure LoopCarries (period sample : Half) (r : Regs) : Prop where
  snapped : r.lphase = 1#2 → r.snap = sample
  multiplied : r.lphase = 2#2 → r.prod = mulStage period sample
  divided : r.lphase = 3#2 → r.dutyq = scale period sample

/-- Between two iterations nothing is carried. -/
theorem loopCarries_at_rest {period sample : Half} {r : Regs} (rest : r.lphase = 0#2) : LoopCarries period sample r :=
  ⟨fun h => by simp [rest] at h, fun h => by simp [rest] at h, fun h => by simp [rest] at h⟩

section
variable {e : Event} {r t : Regs} (h : RegsStep e r t)
include h

/-- An iteration carries on with the period and the sample it finds, and one that starts takes the sample that stands. -/
theorem loopCarries_of_regsStep (carries : LoopCarries r.period r.sample r) : LoopCarries r.period r.sample t := by
  obtain ⟨snapped, multiplied, divided⟩ := carries
  cases h with
  | loopSnap => exact ⟨fun _ => rfl, fun h => absurd h (by decide : 1#2 ≠ 2#2), fun h => absurd h (by decide : 1#2 ≠ 3#2)⟩
  | loopMul _ _ phase =>
    have product : mulStage r.period r.snap = mulStage r.period r.sample := by rw [snapped phase]
    exact ⟨fun h => absurd h (by decide : 2#2 ≠ 1#2), fun _ => product, fun h => absurd h (by decide : 2#2 ≠ 3#2)⟩
  | loopDiv _ _ phase =>
    have quotient : divStage r.prod = scale r.period r.sample := by rw [multiplied phase, scale]
    exact ⟨fun h => absurd h (by decide : 3#2 ≠ 1#2), fun h => absurd h (by decide : 3#2 ≠ 2#2), fun _ => quotient⟩
  | loopApply => exact loopCarries_at_rest rfl
  | reset => exact loopCarries_at_rest rfl
  | _ => exact ⟨snapped, multiplied, divided⟩

/-- While the loop runs and neither the host nor `RESET` writes it, `CMP` changes only to the duty of the iteration. -/
theorem cmp_of_regsStep (noReset : e ≠ .internal .reset) (noDuty : e.stepKind ≠ .pwmSetDuty) (looping : running r = true) :
    t.cmp = r.cmp ∨ (r.lphase = 3#2 ∧ t.cmp = r.dutyq) := by
  cases h with
  | pwmCfg _ _ stopped => exact absurd (looping.symm.trans (not_running_of_stopped stopped)) (by decide)
  | pwmSetDuty _ kind => exact absurd kind noDuty
  | loopApply _ _ phase => exact .inr ⟨phase, rfl⟩
  | reset he => exact absurd he noReset
  | _ => exact .inl rfl

end

/-- The apply of a run ends its iteration and writes the iteration's duty. -/
theorem isRun_loopApply {σ : Nat → State} {ε : Nat → Event} (run : IsRun σ ε) {m : Nat}
    (taken : ε m = .internal .loopApply) (applies : enabled .loopApply (σ m).regs = true) :
    (σ m).regs.lphase = 3#2 ∧ (σ (m + 1)).regs.lphase = 0#2 ∧ (σ (m + 1)).regs.cmp = (σ m).regs.dutyq := by
  have guard : running (σ m).regs = true ∧ (σ m).regs.lphase = 3#2 := (enabled_iff_of_guard rfl).1 applies
  have gives : internalStep .loopApply (σ m).regs = some { writeDuty (σ m).regs.dutyq (σ m).regs with lphase := 0#2 } :=
    if_pos guard
  have after := isRun_internalStep run taken
  rw [gives, Option.getD_some] at after
  rw [after]
  exact ⟨guard.2, rfl, rfl⟩

theorem period_from {σ : Nat → State} {ε : Nat → Event} {n : Nat} (run : IsRun σ ε)
    (noReset : ∀ m, n ≤ m → ε m ≠ .internal .reset) (looping : running (σ n).regs = true) :
    ∀ m, n ≤ m → (σ m).regs.period = (σ n).regs.period := by
  refine holds_from rfl fun m hm same => ?_
  obtain ⟨_, counting, _⟩ := running_iff.1 (running_from run noReset looping m hm)
  obtain ⟨_, kept, _⟩ := timer_of_regsStep (isRun_regsStep run m) (noReset m hm) counting
  exact kept.trans same

/-! A fair run of a running loop in which the sample and the period stand and only the loop writes `CMP`. -/

section
variable {σ : Nat → State} {ε : Nat → Event} {k : Nat} {period sample : Half} (run : IsRun σ ε)
  (noReset : ∀ m, k ≤ m → ε m ≠ .internal .reset) (looping : running (σ k).regs = true)
  (samples : ∀ m, k ≤ m → (σ m).regs.sample = sample) (periods : ∀ m, k ≤ m → (σ m).regs.period = period)
include run samples periods

theorem loopCarries_from {j : Nat} (hj : k ≤ j) (rest : (σ j).regs.lphase = 0#2) :
    ∀ m, j ≤ m → LoopCarries period sample (σ m).regs := by
  refine holds_from (loopCarries_at_rest rest) fun m hm carries => ?_
  rw [← periods m (hj.trans hm), ← samples m (hj.trans hm)] at carries ⊢
  exact loopCarries_of_regsStep (isRun_regsStep run m) carries

include noReset looping

/-- The first apply ends an iteration that may carry anything; the second applies the scale of the sample that stands; and
from then on every apply writes the same duty again. -/
theorem cmp_settles (fair : WeaklyFair σ ε) (noDuty : ∀ m, k ≤ m → (ε m).stepKind ≠ .pwmSetDuty) :
    ∃ j, k ≤ j ∧ ∀ m, j ≤ m → (σ m).regs.cmp = scale period sample := by
  obtain ⟨_, appliesAgain, _⟩ := fairAgentsKeepWorking σ ε k run fair noReset
  obtain ⟨i, hi, taken, applies⟩ := appliesAgain looping k le_rfl
  obtain ⟨_, rest, _⟩ := isRun_loopApply run taken applies
  have carries := loopCarries_from run samples periods (j := i + 1) (by omega) rest
  obtain ⟨j, hj, taken, applies⟩ := appliesAgain looping (i + 1) (by omega)
  obtain ⟨phase, _, applied⟩ := isRun_loopApply run taken applies
  refine ⟨j + 1, by omega, holds_from (applied.trans ((carries j hj).divided phase)) fun m hm settled => ?_⟩
  have later : k ≤ m := by omega
  rcases cmp_of_regsStep (isRun_regsStep run m) (noReset m later) (noDuty m later)
    (running_from run noReset looping m later) with same | ⟨phase, applied⟩
  · exact same.trans settled
  · exact applied.trans ((carries m (by omega)).divided phase)

end

/-- Settles O59: the last value published arrives in `SAMPLE` and stays there, and `CMP` settles at its scale. -/
theorem eventuallyCmpReflectsTheLastSample : Obligations.EventuallyCmpReflectsTheLastSample := by
  intro σ ε n run fair inv looping still
  have noReset : ∀ m, n ≤ m → ε m ≠ .internal .reset := fun m hm => (still m hm).1
  have noDuty : ∀ m, n ≤ m → (ε m).stepKind ≠ .pwmSetDuty := fun m hm => (still m hm).2.1
  have noPublish : ∀ m, n ≤ m → publishesNext ((σ m).choose (ε m)) = [] := fun m hm => (still m hm).2.2
  obtain ⟨k, hk, arrived⟩ :=
    lastPublishedValueArrives σ ε n run fair inv fun m hm => ⟨noReset m hm, noPublish m hm⟩
  obtain ⟨j, hj, settled⟩ := cmp_settles run (fun m hm => noReset m (hk.trans hm)) (running_from run noReset looping k hk)
    (fun m hm => (arrived m hm).1) (fun m hm => period_from run noReset looping m (hk.trans hm)) fair
    (fun m hm => noDuty m (hk.trans hm))
  exact ⟨j, hk.trans hj, settled⟩

end Sys2Proof.Machine
end

section
/-! PROOFS. The laws of the scaler and the order of the loop (spec/42_scaler_and_loop.md R180 to R190): one equation per loop step
for what it writes at its phase, and the iteration that the four make when they are taken one after the other. -/

namespace Sys2Proof.Machine

/-! The scaler. -/

/-- Settles O36: it is the scaler's equation over the numbers. -/
theorem scaleIsExactFloor : Obligations.ScaleIsExactFloor :=
  scale_toNat

theorem scale_zero (period : Half) : scale period 0#16 = 0#16 := by
  apply BitVec.eq_of_toNat_eq
  simp [scale_toNat]

theorem scale_full (period : Half) : scale period 0xFFFF#16 = period := by
  apply BitVec.eq_of_toNat_eq
  rw [scale_toNat]
  exact Nat.mul_div_cancel period.toNat (by decide : 0 < 65535)

/-- `SCALE` is monotone in both operands at once: product and floor both are. -/
theorem scale_le_scale {p q x y : Half} (hp : p ≤ q) (hx : x ≤ y) : scale p x ≤ scale q y := by
  rw [BitVec.le_def, scale_toNat, scale_toNat]
  exact Nat.div_le_div_right (Nat.mul_le_mul hp hx)

/-- The largest product is that of the largest operands. -/
theorem mulStage_le (period sample : Half) : mulStage period sample ≤ 0xFFFE0001#32 := by
  rw [BitVec.le_def, mulStage_toNat]
  calc period.toNat * sample.toNat ≤ 65535 * 65535 := Nat.mul_le_mul (by omega) (by omega)
    _ = (0xFFFE0001#32).toNat := rfl

/-- Settles O37: each law of the floor is the same law of the exact product. -/
theorem scaleLaws : Obligations.ScaleLaws :=
  ⟨scale_le_period, fun p => ⟨scale_zero p, scale_full p⟩, fun _ _ _ hx => scale_le_scale (Nat.le_refl _) hx,
    fun _ _ _ hp => scale_le_scale hp (Nat.le_refl _), fun p x => ⟨mulStage_toNat p x, mulStage_le p x⟩⟩

/-- The divider keeps the low half of the quotient (R187). -/
theorem divStage_eq_ofNat (prod : BitVec 32) : divStage prod = BitVec.ofNat 16 (prod.toNat / 65535) := by
  apply BitVec.eq_of_toNat_eq
  simp [divStage, scaleDivisor]

/-! The loop's steps: what each writes at its phase, and when it is enabled. -/

section
variable {r : Regs} (looping : running r = true)
include looping

theorem loopSnap_of_phase (phase : r.lphase = 0#2) :
    internalStep .loopSnap r = some { r with snap := r.sample, lphase := 1#2 } :=
  if_pos ⟨looping, phase⟩

theorem loopMul_of_phase (phase : r.lphase = 1#2) :
    internalStep .loopMul r = some { r with prod := mulStage r.period r.snap, lphase := 2#2 } :=
  if_pos ⟨looping, phase⟩

theorem loopDiv_of_phase (phase : r.lphase = 2#2) :
    internalStep .loopDiv r = some { r with dutyq := divStage r.prod, lphase := 3#2 } :=
  if_pos ⟨looping, phase⟩

theorem loopApply_of_phase (phase : r.lphase = 3#2) :
    internalStep .loopApply r = some { r with cmp := r.dutyq, lphase := 0#2 } :=
  if_pos ⟨looping, phase⟩

end

/-- Settles O38: the four equations above, and the guard of each step. -/
theorem loopStepsRunInOrder : Obligations.LoopStepsRunInOrder := by
  refine fun r => ⟨loopSnap_of_phase, fun looping phase => ?_, fun looping phase => ?_, loopApply_of_phase,
    enabled_iff_of_guard rfl, enabled_iff_of_guard rfl, enabled_iff_of_guard rfl, enabled_iff_of_guard rfl⟩
  · exact ⟨_, loopMul_of_phase looping phase, mulStage_toNat r.period r.snap⟩
  · rw [loopDiv_of_phase looping phase, divStage_eq_ofNat]

/-! The duty that is applied. -/

/-- Settles O40: at phase 3 the invariant says what the duty is, and it bounds it. -/
theorem loopAppliesScaleOfItsSnapshot : Obligations.LoopAppliesScaleOfItsSnapshot := by
  rintro r t ⟨_, _, divided, bounded⟩ applied
  obtain ⟨looping, phase⟩ := (enabled_iff_of_guard rfl).1 (enabled_of_internalStep applied)
  rw [loopApply_of_phase looping phase] at applied
  cases applied
  obtain ⟨_, duty⟩ := divided phase
  exact ⟨duty, bounded⟩

/-- Of the steps other than `PWM_SETDUTY` only three write `CMP`: `PWM_CFG` and `RESET` write 0, and `LOOP_APPLY` a duty that
the invariant bounds. -/
theorem cmp_le_period_of_regsStep {e : Event} {r t : Regs} (h : RegsStep e r t) (inv : LoopInv r)
    (below : r.cmp ≤ r.period) (noDuty : e.stepKind ≠ .pwmSetDuty) : t.cmp ≤ t.period := by
  obtain ⟨_, _, _, bounded⟩ := inv
  cases h with
  | pwmCfg => exact Nat.zero_le _
  | pwmSetDuty _ kind => exact absurd kind noDuty
  | loopApply => exact bounded
  | reset => exact Nat.le_refl _
  | _ => exact below

/-- Settles O60: the step of the machine is one of the cases of `RegsStep`. -/
theorem stepKeepsCmpWithinPeriod : Obligations.StepKeepsCmpWithinPeriod :=
  fun _ _ inv below h noDuty => cmp_le_period_of_regsStep (step_regsStep h) inv below noDuty

/-! One iteration, taken whole. -/

/-- The registers after a whole iteration: the scale of the sample it found, with the values on the way to it. -/
def iterated (r : Regs) : Regs :=
  { r with
    snap := r.sample
    prod := mulStage r.period r.sample
    dutyq := scale r.period r.sample
    cmp := scale r.period r.sample
    lphase := 0#2 }

/-- The turns of the four loop steps, from phase 0 on, make an iteration. -/
theorem afterTurns_iteration {r : Regs} (looping : running r = true) (rest : r.lphase = 0#2) :
    [.loopSnap, .loopMul, .loopDiv, .loopApply].foldl afterTurn r = iterated r := by
  have multiplies := loopMul_of_phase (r := { r with snap := r.sample, lphase := 1#2 }) looping rfl
  have divides := loopDiv_of_phase
    (r := { r with snap := r.sample, prod := mulStage r.period r.sample, lphase := 2#2 }) looping rfl
  have applies := loopApply_of_phase (r := { iterated r with cmp := r.cmp, lphase := 3#2 }) looping rfl
  simp only [List.foldl_cons, List.foldl_nil]
  rw [afterTurn_of_enabled (loopSnap_of_phase looping rest), afterTurn_of_enabled multiplies,
    afterTurn_of_enabled divides]
  exact afterTurn_of_enabled applies

/-- Settles O41: the four scheduled turns make an iteration, which leaves what `running` reads. -/
theorem iterationAppliesScale : Obligations.IterationAppliesScale := by
  intro s rest ready looping atRest scheduled
  obtain ⟨t, run, left, regs⟩ :=
    runSteps_of_scheduled [.loopSnap, .loopMul, .loopDiv, .loopApply] ready scheduled
  rw [afterTurns_iteration looping atRest] at regs
  refine ⟨t, run, left, ?_, ?_, ?_⟩ <;> rw [regs]
  · rfl
  · rfl
  · exact looping

end Sys2Proof.Machine
end

section
/-! PROOFS. The timer under ticks (spec/10_state.md R57, spec/43_pwm_timer.md R200 to R203): on a running timer a tick advances
the counter by one modulo the period, so the ticks of one output cycle pass each count below the period once. -/

namespace Sys2Proof.Machine

/-! One tick. -/

theorem pwmTick_of_counting {r : Regs} (counting : PwmCtrl.run r.pwmCtrl = 1#1) :
    internalStep .pwmTick r = some { r with cnt := nextCount r.cnt r.mod } :=
  if_pos counting

theorem pwmTick_of_stopped {r : Regs} (stopped : PwmCtrl.run r.pwmCtrl = 0#1) : internalStep .pwmTick r = none :=
  if_neg (by simp [stopped])

/-- Settles O42: the two branches of `nextCount` under the guard of the tick. -/
theorem tickCountsOrWraps : Obligations.TickCountsOrWraps := by
  refine fun r => ⟨fun counting top => ?_, fun counting below => ?_, pwmTick_of_stopped⟩
  · rw [pwmTick_of_counting counting, nextCount, if_pos top]
  · rw [pwmTick_of_counting counting, nextCount, if_neg below]

/-- With `MOD` one below the period, the counter's next value is one more modulo the period (R36, R200). -/
theorem nextCount_toNat {cnt period : Half} (below : cnt.toNat < period.toNat) :
    (nextCount cnt (period - 1#16)).toNat = (cnt.toNat + 1) % period.toNat := by
  unfold nextCount
  split
  · next top =>
    have full : cnt.toNat + 1 = period.toNat := by bv_omega
    rw [full, Nat.mod_self]
    rfl
  · next notTop =>
    have within : cnt.toNat + 1 < period.toNat := by bv_omega
    rw [Nat.mod_eq_of_lt within]
    bv_omega

/-! Runs of ticks. -/

/-- The turns of `n` ticks advance the counter by `n` modulo the period and change nothing else. -/
theorem afterTurns_pwmTick (n : Nat) {r : Regs} (inv : TimerInv r) (counting : PwmCtrl.run r.pwmCtrl = 1#1) :
    ∃ c : Half, (List.replicate n .pwmTick).foldl afterTurn r = { r with cnt := c } ∧
      c.toNat = (r.cnt.toNat + n) % r.period.toNat := by
  induction n generalizing r with
  | zero => exact ⟨r.cnt, rfl, (Nat.mod_eq_of_lt (cnt_lt_period inv counting)).symm⟩
  | succ n ih =>
    have tick := pwmTick_of_counting counting
    obtain ⟨c, turns, value⟩ := ih (timerInv_of_regsStep (internalStep_regsStep tick) inv) counting
    obtain ⟨_, _, modulo, _⟩ := timerInv_running inv counting
    refine ⟨c, ?_, ?_⟩
    · rw [List.replicate_succ, List.foldl_cons, afterTurn_of_enabled tick, turns]
    · rw [value, modulo, nextCount_toNat (cnt_lt_period inv counting), Nat.mod_add_mod, Nat.add_assoc, Nat.add_comm 1]

/-- Settles O44: the scheduled ticks take their turns, and each of them counts modulo the period. -/
theorem counterCountsModuloPeriod : Obligations.CounterCountsModuloPeriod := by
  intro n s rest ready inv counting scheduled
  obtain ⟨t, run, left, regs⟩ :=
    runSteps_of_scheduled (List.replicate n .pwmTick) ready (by rw [List.map_replicate, scheduled])
  obtain ⟨c, turns, value⟩ := afterTurns_pwmTick n inv counting
  rw [List.length_replicate] at run
  exact ⟨t, c, run, left, regs.trans turns, value⟩

/-! One output cycle. -/

/-- On a running timer whose counter is below the period, the output compares the counter with the duty, cut to the period
(R57, R203). -/
theorem pwmOut_of_cnt_lt {r : Regs} (counting : PwmCtrl.run r.pwmCtrl = 1#1) (pin : r.pinPwm = 1#1)
    (below : r.cnt.toNat < r.period.toNat) : pwmOut r = decide (r.cnt.toNat < min r.cmp.toNat r.period.toNat) := by
  rw [Bool.eq_iff_iff, pwmOut_iff, decide_eq_true_iff, lt_min_iff]
  exact ⟨fun ⟨_, _, active⟩ => ⟨active, below⟩, fun ⟨active, _⟩ => ⟨counting, pin, active⟩⟩

theorem pwmOutAfter_of_run {k : Nat} {s t : State} (run : runSteps k s = .next t) :
    pwmOutAfter k s = pwmOut t.regs := by
  rw [pwmOutAfter, run]

/-- After `k` ticks of the output cycle that begins at `CNT = 0` the count is `k`, and the output compares it. -/
theorem pwmOutAfter_of_cycle {k : Nat} {s : State} {rest : List Event} (ready : s.clocksReady = true)
    (inv : TimerInv s.regs) (counting : PwmCtrl.run s.regs.pwmCtrl = 1#1) (start : s.regs.cnt = 0#16)
    (scheduled : s.sched = List.replicate k (.internal .pwmTick) ++ rest) (within : k < s.regs.period.toNat) :
    pwmOutAfter k s = decide (k < min s.regs.cmp.toNat s.regs.period.toNat) := by
  obtain ⟨t, c, run, _, regs, value⟩ := counterCountsModuloPeriod k s rest ready inv counting scheduled
  obtain ⟨_, _, _, _, pin⟩ := timerInv_running inv counting
  have count : c.toNat = k := by
    rw [value, start, BitVec.toNat_zero, Nat.zero_add, Nat.mod_eq_of_lt within]
  have level := pwmOut_of_cnt_lt (r := { s.regs with cnt := c }) counting pin (count.trans_lt within)
  rw [pwmOutAfter_of_run run, regs, level, count]

theorem countP_range_lt (m n : Nat) : (List.range n).countP (fun k => decide (k < m)) = min m n := by
  induction n with
  | zero => simp
  | succ n ih =>
    rw [List.range_succ, List.countP_append, ih, List.countP_singleton]
    simp only [decide_eq_true_iff]
    split <;> omega

/-- Settles O45: the cycle's counts are those below the period, and the output is active below `CMP`. -/
theorem outputCycleHasDutyActiveCounts : Obligations.OutputCycleHasDutyActiveCounts := by
  refine ⟨fun r inv counting => ?_, fun s rest ready inv counting start scheduled => ?_⟩
  · obtain ⟨_, _, _, _, pin⟩ := timerInv_running inv counting
    have below := cnt_lt_period inv counting
    exact ⟨below, pwmOut_of_cnt_lt counting pin below⟩
  · have levels : ∀ k < s.regs.period.toNat,
        pwmOutAfter k s = decide (k < min s.regs.cmp.toNat s.regs.period.toNat) := by
      intro k within
      refine pwmOutAfter_of_cycle (rest := List.replicate (s.regs.period.toNat - k) (.internal .pwmTick) ++ rest)
        ready inv counting start ?_ within
      rw [scheduled, ← List.append_assoc, List.replicate_append_replicate, Nat.add_sub_cancel' within.le]
    refine ⟨levels, ?_⟩
    calc (List.range s.regs.period.toNat).countP (fun k => pwmOutAfter k s)
        = (List.range s.regs.period.toNat).countP
            (fun k => decide (k < min s.regs.cmp.toNat s.regs.period.toNat)) :=
          List.countP_congr fun k within => by rw [levels k (List.mem_range.1 within)]
      _ = min s.regs.cmp.toNat s.regs.period.toNat := by rw [countP_range_lt, Nat.min_assoc, Nat.min_self]

end Sys2Proof.Machine
end

section
/-! PROOFS. The exceptional events (spec/60_exceptions.md R220, R221, R228, R229): the codes of the responses, what a rejection
leaves, and the frame of the completion interrupt's handler. -/

namespace Sys2Proof.Machine

/-! Rejection. -/

/-- A command that answers another code than `OK` leaves the state as it was but for the response (R221). -/
theorem exec_rejected {i : Instr} {s t : State} (h : exec i s = .next t) (rejected : t.rsp ≠ some .ok) :
    t = { s with rsp := t.rsp } := by
  cases i with
  | nop =>
    obtain ⟨_, rfl⟩ := accept_eq_next.1 h
    exact absurd rfl rejected
  | adcCfg ch cont avg count =>
    obtain ⟨_, ⟨_, rfl⟩ | ⟨_, _, rfl⟩ | ⟨_, _, _, rfl⟩ | ⟨_, _, _, _, rfl⟩⟩ := execAdcCfg_cases h
    · rfl
    · rfl
    · rfl
    · exact absurd rfl rejected
  | adcStart ch =>
    obtain ⟨_, ⟨_, rfl⟩ | ⟨_, _, rfl⟩ | ⟨_, _, _, rfl⟩ | ⟨_, _, _, _, _, rfl⟩⟩ := execAdcStart_cases h
    · rfl
    · rfl
    · rfl
    · exact absurd rfl rejected
  | pwmCfg period =>
    obtain ⟨_, ⟨_, rfl⟩ | ⟨_, _, rfl⟩ | ⟨_, _, rfl⟩⟩ := execPwmCfg_cases h
    · rfl
    · rfl
    · exact absurd rfl rejected
  | pwmSetDuty duty =>
    obtain ⟨_, ⟨_, rfl⟩ | ⟨_, rfl⟩⟩ := execPwmSetDuty_cases h
    · rfl
    · exact absurd rfl rejected

/-- A host step that answers another code than `OK`, for a rejected command or an illegal word, changes no register (R221). -/
theorem regs_of_rejected_host_step {s t : State} {cmd : Word} (hs : s.nextEvent = .host cmd) (h : step s = .next t)
    (rejected : t.rsp ≠ some .ok) : t.regs = s.regs := by
  obtain ⟨_, i, _, _, hx⟩ | ⟨_, _, _, _, _, rfl⟩ | ⟨a, ha, _⟩ := step_cases h
  · rw [exec_rejected hx rejected, take_regs]
  · rfl
  · cases hs.symm.trans ha

/-- Settles O14: by the outcomes of each command; and a step runs on the state `take` leaves, whose response is none. -/
theorem rejectedStepChangesNothing : Obligations.RejectedStepChangesNothing :=
  ⟨fun _ _ _ hs h rejected => regs_of_rejected_host_step hs h rejected, fun _ _ _ h rejected => exec_rejected h rejected,
    fun _ _ => step_congr rfl rfl⟩

/-! The handler. -/

/-- The handler runs in the sampler's domain: every register it writes is of that domain (R20, R229). -/
theorem domain_of_mem_writes_irqService : ∀ n ∈ StepKind.irqService.writes, n.domain = .samplerS := by
  decide

/-- Settles O27: the handler leaves what its kind does not write, and it writes within its own domain. -/
theorem handlerTouchesOnlyTheSendingSide : Obligations.HandlerTouchesOnlyTheSendingSide := by
  intro r t h
  have frame : ∀ n ∉ StepKind.irqService.writes, n.val t = n.val r := fun _ hn =>
    val_of_regsStep (internalStep_regsStep h) (by decide) hn
  exact ⟨frame, fun n other => frame n (mt (domain_of_mem_writes_irqService n) other)⟩

/-! The responses. -/

/-- Settles O13: the table of R220, code by code. -/
theorem responseCodes : Obligations.ResponseCodes := by
  intro c
  cases c <;> rfl

end Sys2Proof.Machine
end

section
/-! PROOFS. The state after reset (spec/70_reset_and_hazards.md R250, R251): every register is 0, so that no flag, request or
phase enables a step of another agent but `RESET`, and each invariant holds in its quiet form. -/

namespace Sys2Proof.Machine

/-! The registers. -/

theorem val_reset (n : RegName) : n.val Regs.reset = 0 := by
  cases n <;> rfl

/-- Settles O22: the step completes, and it leaves the reset registers. -/
theorem resetClearsEveryRegister : Obligations.ResetClearsEveryRegister := by
  intro s ready reset
  obtain ⟨t, stepped, _⟩ := step_completes ready
  exact ⟨t, stepped, fun n => by rw [regs_of_reset stepped reset, val_reset]⟩

/-! What is enabled. -/

theorem enabled_convComplete_iff {r : Regs} {v : Half} : enabled (.convComplete v) r = true ↔ r.conv = 1#1 :=
  enabled_iff_of_guard rfl

theorem enabled_irqService_iff {r : Regs} : enabled .irqService r = true ↔ irq r = true :=
  enabled_iff_of_guard rfl

theorem enabled_pwmTick_iff {r : Regs} : enabled .pwmTick r = true ↔ PwmCtrl.run r.pwmCtrl = 1#1 :=
  enabled_iff_of_guard rfl

/-- No step of the loop is enabled while it is `Initializing` (R184). -/
theorem running_of_enabled_loop {r : Regs} {a : InternalStep} (agent : a.agent = .loop) (on : enabled a r = true) :
    running r = true := by
  cases a with
  | loopSnap | loopMul | loopDiv | loopApply =>
    obtain ⟨looping, _⟩ := (enabled_iff_of_guard rfl).1 on
    exact looping
  | _ => cases agent

theorem irq_reset : irq Regs.reset = false := by
  decide

theorem pwmOut_reset : pwmOut Regs.reset = false := by
  decide

/-- At reset no conversion runs, no interrupt is requested, nothing waits, the handshake bits agree, the loop is at rest and the
timer stopped. -/
theorem eq_reset_of_enabled_reset {a : InternalStep} (on : enabled a Regs.reset = true) : a = .reset := by
  cases a with
  | convComplete v => exact absurd (enabled_convComplete_iff.1 on) (by decide)
  | irqService => exact absurd (enabled_irqService_iff.1 on) (Bool.eq_false_iff.1 irq_reset)
  | cdcRelaunch =>
    obtain ⟨_, waits⟩ := enabled_cdcRelaunch_iff.1 on
    exact absurd waits (by decide)
  | cdcSyncReq => exact absurd rfl (enabled_cdcSyncReq_iff.1 on)
  | cdcCapture => exact absurd rfl (enabled_cdcCapture_iff.1 on)
  | cdcSyncAck => exact absurd rfl (enabled_cdcSyncAck_iff.1 on)
  | loopSnap | loopMul | loopDiv | loopApply =>
    exact absurd (running_of_enabled_loop rfl on) (Bool.eq_false_iff.1 not_running_reset)
  | pwmTick => exact absurd (enabled_pwmTick_iff.1 on) (by decide)
  | reset => rfl

theorem enabled_reset_iff {a : InternalStep} : enabled a Regs.reset = true ↔ a = .reset :=
  ⟨eq_reset_of_enabled_reset, fun h => h ▸ enabled_of_internalStep rfl⟩

/-- Settles O23: register by register, step by step and signal by signal. -/
theorem stateAfterReset : Obligations.StateAfterReset :=
  ⟨val_reset, fun _ => enabled_reset_iff, irq_reset, not_running_reset, pwmOut_reset, cdcIdle_iff.2 rfl⟩

/-! The invariants. -/

/-- Unconfigured and not started. -/
theorem samplerInv_reset : SamplerInv Regs.reset :=
  ⟨.inl ⟨rfl, rfl, rfl, rfl⟩, fun _ => ⟨rfl, rfl, rfl⟩, fun started => absurd started (by decide)⟩

/-- Unconfigured and still. -/
theorem timerInv_reset : TimerInv Regs.reset :=
  .inl ⟨rfl, rfl, rfl, rfl, rfl⟩

/-- Idle, with `SAMPLE` and `HOLD` both 0. -/
theorem handoffInv_reset : HandoffInv Regs.reset :=
  ⟨mem_handshakeCycle_iff.2 ⟨.inl rfl, .inl rfl, .inl rfl⟩, fun _ => rfl⟩

/-- Settles O48: each of the four in its quiet form. -/
theorem invariantsHoldAtReset : Obligations.InvariantsHoldAtReset :=
  ⟨samplerInv_reset, timerInv_reset, handoffInv_reset, loopInv_at_rest rfl (BitVec.le_refl _)⟩

end Sys2Proof.Machine
end
